-- ==== Sys2Proof/Word.lean ====
section
/-!
DEFINITION. The word types of the WN-880 (00_scope R9: a dword is 32 bits, every multi-byte field is little-endian).
-/
namespace Sys2Proof

/-- A byte. -/
abbrev Byte := BitVec 8

/-- A 16-bit word: a tag, a handle, a 16-bit element. -/
abbrev Half := BitVec 16

/-- A dword (R9). -/
abbrev Dword := BitVec 32

/-- A 64-bit register, key, seed or time. -/
abbrev Quad := BitVec 64

/-- One 32-byte sector of a line, byte 0 in bits [7:0] (R204). -/
abbrev Sector := BitVec 256

end Sys2Proof
end

