-- ==== Sys2Proof/Syntax.lean ====
section
/-!
DEFINITION. The commands of the WN-880: one constructor of `Instr` per row of spec/opcode_table.json, with its operands.
Operand names: `h` a Hopper, `f` a PCIe function (0 the physical function), `e` an engine, `c` a cluster, `p` a partition
or a Gynis port, `x` a herd ID. `news` are bytes the host has stored in its own memory since the device last read it.
-/
namespace Sys2Proof

/-- A LINK_ID message of the far port (10 Table HRD-3 step 5). -/
structure LinkInfo where
  serial : BitVec 64
  port : Nat
  fw : BitVec 32
  tree : Nat
  deriving DecidableEq, Repr

/-- What a start finds on port 0 and TWIN_HB_IN (12 R345): port 0 not UP, or UP with the far side's LINK_ID, and whether a
heartbeat edge has arrived. -/
inductive TwinSeen where
  | absent
  | up (info : LinkInfo) (edge : Bool)
  deriving DecidableEq, Repr

/-- What the outside shows one start of the device (12 Tables PWR-6 and PWR-8): straps, the results of the checks and
self-tests of each step, and the twin. -/
structure StartEnv where
  supplies : Bool             -- every supply in range while PERST_N cycled (15 R415)
  bootSel : Nat               -- BOOT_SEL_1, BOOT_SEL_0 as strapped (Table PWR-7)
  fuseBad : Option Nat        -- step 2: failing fuse row
  pllBad : Option Nat         -- step 3: index of a PLL that did not lock (Table PWR-2)
  bistBad : Option Nat        -- step 5: a failing array outside the engines (FALLOW_DETAIL of SRAM_BIST)
  badEngines : BitVec 8       -- step 5: engines that fail self-test
  hbmBad : Option Nat         -- step 6: FALLOW_DETAIL of HBM_TRAIN
  crash : Option Nat          -- step 7: ERRLOG cause code of FW_CRASH
  twin : TwinSeen             -- step 8
  deriving DecidableEq, Repr

/-- What port p's training found (10 Table HRD-3, R276). -/
structure TrainResult where
  lanesFailed : BitVec 4
  polarity : BitVec 4
  deriving DecidableEq, Repr

/-- State carried by a LOG (09 Table TRN-6). -/
inductive LogState where
  | provisional
  | final
  | rolledBack
  deriving DecidableEq, Repr

/-- An OFFER of the herd's formation (10 Table HRD-8 step 3): the sender's manifest, its computed values, its step state. -/
structure Offer where
  x : Nat                     -- herd ID of the sender
  manifest : List (BitVec 8)  -- the sender's manifest, header and entries
  fw : BitVec 32
  configHash : BitVec 64
  tree : Nat
  tileLog2 : Nat
  partShape : BitVec 8
  seedMix : BitVec 64         -- mix64 of the herd partition's seed
  hasRegion : Bool            -- a parameter region is configured
  committed : BitVec 64
  undoOk : Bool
  undecided : Bool
  log : Option LogState       -- state of its last LOG
  formCount : BitVec 32
  time : BitVec 64
  deriving DecidableEq, Repr

/-- A pair of FP32 words, high and low (04 R91). -/
abbrev Pair := BitVec 32 × BitVec 32

/-- One collective message of VC_1 (09 R237 to R244). `k` numbers the collectives of a member in decode order (R241);
`gather` tells SHARD_GATHERs from the two reductions. -/
inductive CollMsg where
  | join (gather : Bool) (k x : Nat) (fields : List Nat)     -- a member's fields, to every member
  | go (gather : Bool) (k : Nat)                             -- the leader has found them equal
  | up (k chunk level q : Nat) (vals : List Pair)            -- a node of the member tree, one word pair per element
  | down (k chunk : Nat) (bytes : List (BitVec 8))           -- the root's result of one chunk, in FMT
  | shard (k rank chunk : Nat) (bytes : List (BitVec 8))     -- SHARD_GATHER data
  deriving DecidableEq, Repr

/-- One tile-tree node sent for a herd context (10 R304). -/
structure CtxNodeMsg where
  level : Nat
  pos : Nat
  n : Nat                    -- candidates below it (MOMENTS)
  max : BitVec 32            -- running maximum (SOFTMAX)
  a : Pair
  b : Pair
  deriving DecidableEq, Repr

/-- What one member sends for a herd-context CTX_CLOSE (10 R304). -/
structure CtxNodesMsg where
  k : Nat                    -- place of the close in decode order
  x : Nat
  rowKey : BitVec 64
  kind : Nat
  rnd : Nat
  outFmt : Nat
  dest : Option (BitVec 32)  -- DEST_FMT of a close that writes
  tiles : Nat                -- one more than the highest tile position its feeds were assigned
  count : Nat
  nodes : List CtxNodeMsg
  deriving DecidableEq, Repr

/-- RECOVER (10 R301): decided by the leader, which has learnt the steps complete at the holder of each herd ID (a herd ID not
listed has no holder left), or heard from it. -/
inductive RecoverMsg where
  | decided (complete : List (Nat × List (BitVec 64)))
  | heard (step : Option (BitVec 64))
  deriving DecidableEq, Repr

/-- What a member's STATE carries of its commit logs (09 R258): its own last LOG, and the newest entry that it keeps for its
twin: token, step, state. -/
structure StateLogs where
  own : Option LogState
  twin : Option (BitVec 64 × BitVec 64 × LogState)
  deriving DecidableEq, Repr

/-- An access of BAR0 for reading (14 R375): one dword, or 8 bytes, at an offset. -/
inductive BarRead where
  | dword (off : Nat)
  | wide (off : Nat)
  deriving DecidableEq, Repr

/-- A RESTORE_QUERY seen by this device: asked as the holder, or answered as the asker (09 R265). -/
inductive RestoreMsg where
  | asked (x : Nat) (step : BitVec 64)
  | answered (complete : Bool)
  | unanswered
  deriving DecidableEq, Repr

/-- A checkpoint is confirmed: here as the holder once its last page has arrived, or by the holder for this device's
CHECKPOINT (09 R261). -/
inductive ConfirmSide where
  | holder (x : Nat) (step : BitVec 64)
  | sender (step : BitVec 64)
  deriving DecidableEq, Repr

/-- Outcome of the error checking of one read or refresh (08 R226, 13 R368). -/
inductive Ecc where
  | ok
  | corrected
  | uncorrectable
  deriving DecidableEq, Repr

/-- Which cache a CACHE_REFETCH concerns (13 Table SEC-6): data of one L1, or its tags; data of L2. -/
inductive CacheUnit where
  | l1 (e : Nat) (tags : Bool)
  | l2
  deriving DecidableEq, Repr

/-- A retained item an AON_UE hits (13 Table SEC-6, 12 Table PWR-1). -/
inductive AonItem where
  | startState               -- BOOT_ATTEMPTS, FALLOW_REASON, FALLOW_DETAIL, start flags
  | image                    -- boot slot and IMAGE_DIGEST
  | hbmTraining
  | keySlot (n : Nat)
  | config
  | telemetry                -- telemetry samples and error summary
  deriving DecidableEq, Repr

/-- Why Miller stops every packet with INTERNAL (03 R74, 13 Table SEC-9). -/
inductive MillerStop where
  | watchdog (pc : BitVec 64)
  | stateCheck (code : BitVec 64)
  deriving DecidableEq, Repr

/-- Arrays of an engine whose errors fence it (13 Table SEC-6). -/
inductive EngineArray where
  | scratchpad
  | banks
  | contextStore
  | tables                   -- Millstone tables
  | exceptionRom
  deriving DecidableEq, Repr

/-- Identity items of PCIe configuration space (00 Table SCO-2). -/
inductive CfgItem where
  | deviceId
  | revisionId
  deriving DecidableEq, Repr

/-- The commands. -/
inductive Instr where
  -- Packets: Miller works on the front packet of Hopper h.
  | nop (h : Nat)
  | fence (h : Nat)
  | fencePoll (h : Nat) (news : List Host.Cell)
  | epochFence (h : Nat)
  | timestamp (h : Nat)
  | frameTick (h : Nat)
  | sleepHint (h : Nat)
  | ctxOpen (h : Nat)
  | ctxFeed (h : Nat)
  | ctxClose (h : Nat)
  | ctxQuery (h : Nat)
  | reduce (h : Nat)
  | sfnApply (h : Nat)
  | ewise (h : Nat)
  | softmax (h : Nat)
  | layernorm (h : Nat)
  | rmsnorm (h : Nat)
  | softmaxBwd (h : Nat)
  | normBwd (h : Nat)
  | prefetch (h : Nat)
  | flushRange (h : Nat)
  | invalRange (h : Nat)
  | windowSet (h : Nat)
  | copy (h : Nat)
  | stashSave (h : Nat)
  | stashLoad (h : Nat)
  | bucketReduce (h : Nat)
  | shardGather (h : Nat)
  | reduceScatter (h : Nat)
  | updateStep (h : Nat)
  | commitStep (h : Nat)
  | rollbackStep (h : Nat)
  | checkpoint (h : Nat)
  | restore (h : Nat)
  | replayArm (h : Nat)
  | replayRun (h : Nat)
  | herdForm (h : Nat)
  | herdLeave (h : Nat)
  | herdTime (h : Nat)
  | engineFence (h : Nat)
  | engineUnfence (h : Nat) (failing : BitVec 8)
  | srSeed (h : Nat)
  | fallowExit (h : Nat)
  | debugAccRead (h : Nat)
  | unlistedOpcode (h : Nat)
  | partitionMap (h : Nat)
  | placement (h : Nat)
  | stashRegion (h : Nat)
  | overflowRegion (h : Nat)
  | replayBuffer (h : Nat)
  | checkpointReserve (h : Nat)
  | paramRegion (h : Nat)
  | tickSource (h : Nat)
  | pressureDemote (h : Nat)
  | protectedRegion (h : Nat)
  -- Hopper manager and engines.
  | doorbellTailWrite (f h : Nat) (v : BitVec 32)
  | doorbellCplHeadWrite (f h : Nat) (v : BitVec 32)
  | hopCtrlWrite (f h : Nat) (v : BitVec 32)
  | hopIrqWrite (f h : Nat) (v : BitVec 32)
  | packetFetch (news : List Host.Cell)
  | segmentDispatch (e : Nat)
  | tileComplete (e c : Nat)
  | tailraceDrainDone (e c : Nat)
  | segmentEnd (e : Nat)
  | carryNodeArrival (e : Nat)
  | pendingEntryFreed (e : Nat)
  | ctxSlotFreed (e : Nat)
  | ctxWaitLimitExpiry (h : Nat)
  | packetComplete (h : Nat) (env : StartEnv)
  | irqCoalesceTimeout (h : Nat)
  | replayCountReached
  -- Registers and BAR2.
  | glbLockSet (f : Nat) (v : BitVec 32)
  | granuleOwnWrite (f dword : Nat) (v : BitVec 32)
  | pressureLimitWrite (f p : Nat) (v : BitVec 32)
  | ctxPeakWrite (f e : Nat) (v : BitVec 32)
  | registerWrite (f off : Nat) (wide wholeDwords : Bool) (v : BitVec 64)
  | lowDwordRead (f : Nat) (at_ : BarRead)
  | bar2Read (f off len : Nat)
  | bar2Write (f off : Nat) (bytes : List (BitVec 8)) (poisoned : Bool)
  -- Security block.
  | keyAssign (f slot owner : Nat)
  | keyLoad (f slot : Nat)
  | keyGenerate (f slot : Nat)
  | keyErase (f slot : Nat)
  | keyRelease (f slot : Nat)
  | revokeKey (f i : Nat)
  | advanceRollback (f : Nat)
  | disableDebug (f : Nat)
  | fuseOpDone (vppOk : Bool)
  | dbgReqRequest (f : Nat)
  | dbgReqSubmit (f : Nat)
  | debugVerifyDone (key sig : List (BitVec 8))
  | debugEraseDone (nonZero : Option Nat)
  | nonceExpiry
  | errClear (f : Nat)
  | fatalClear (f : Nat)
  | retrain (f p : Nat)
  | flashRead (f : Nat)
  | flashErase4k (f : Nat)
  | flashProgram (f : Nat)
  | flashOpDone (inTime : Bool)
  -- SMBus.
  | smbStatus
  | smbFallowReason
  | smbBootAttempts
  | smbTemp
  | smbPower
  | smbIdent
  | smbTelemetryPeriod (w : Option (BitVec 16))
  | smbFallowDetail
  | smbWake
  | smbClearAttempts
  | smbRestart (env : StartEnv)
  | smbPwrLimit (w : Option (BitVec 16))
  | smbAlertStatus (w : Option (BitVec 8))
  | smbAlertMask (w : Option (BitVec 8))
  | smbAlertResponse
  | smbClkLowTimeout
  -- Test access port.
  | extest
  | idcode
  | samplePreload (preload : BitVec 32)
  | clamp
  | highz
  | dbgRequest (bit : Bool)
  | dbgChallenge
  | dbgResponse (bytes : List (BitVec 8))
  | dbgStatus
  | dbgScan (bits : Nat)
  | bypass
  | tapReset
  -- Resets, starts, power.
  | perstNAssert
  | perstNDeassert (env : StartEnv)
  | resetHoldExpiry (env : StartEnv)
  | bootAttemptsClear
  | millerWatchdogExpiry (why : MillerStop)
  | configRequest (f : Nat) (item : CfgItem)
  | pmeTurnOff
  | flrVf (f : Nat)
  | flrPf
  | idleDelayExpiry (e : Nat)
  | dozeEntry (half : Nat)
  | dozeWake (half : Nat)
  | selfRefreshEntry (k : Nat)
  | sensorSample (die stack : Int) (watts8 : Nat)
  | throttleStep
  | prochotAssert
  | prochotDeassert
  | supplyFault
  | vddAonLoss
  | vddAonPowerUp
  | aonReady (straps : BitVec 2) (env : Option StartEnv)
  | aonXtalFail
  | pllLoss (i : Nat)
  | telemetrySample
  -- Errors.
  | engineUe (e off : Nat) (array : EngineArray)
  | fatalSram (unit off : Nat)
  | cacheRefetch (unit : CacheUnit) (addr : Nat)
  | l2Poison (addr : Nat)
  | aonUe (item : AonItem) (off : Nat)
  | hbmReadReturn (i : Nat) (ecc : Ecc)
  | hbmRefresh (loc : Nat) (ecc : Ecc)
  -- Caches and paging.
  | evictionNotice (e : Nat)
  | backInvalidateAnswer (e : Nat)
  | pressureWindowEnd (p : Nat)
  | pageOut (e : Nat)
  | pageIn (e : Nat)
  -- Pins.
  | mgtGpio5Rise (tooSoon : Bool)
  | ppsSecond
  -- Gynis ports.
  | flitReceive (p : Nat) (flit : List (BitVec 8))
  | nakReceive (p : Nat) (ack : Nat)
  | ackTimeout (p : Nat)
  | resendLimit (p : Nat)
  | portTrainingDone (p : Nat) (r : TrainResult)
  | trainingTimeout (p : Nat)
  | linkId (p : Nat) (info : LinkInfo)
  | heartbeatEdge
  | heartbeatTimeout
  | twinFailInAssert
  | twinFailInRelease
  -- Herd messages.
  | memberLost (x : Nat)
  | takeover (lost spare : Nat)
  | recover (msg : RecoverMsg)
  | offer (o : Offer)
  | formTimeout
  | dissolve
  | syncTimer
  | sync (p : Nat) (t1 : Int) (answer : Option (Int × Int)) (arrived : Int)
  | readyMessage (x : Nat) (step : BitVec 64)
  | commit (step token : BitVec 64)
  | log (token step : BitVec 64) (state : LogState)
  | logged (token : BitVec 64)
  | ack (x : Nat) (step : BitVec 64)
  | done (step token : BitVec 64)
  | rollback (step : BitVec 64)
  | state (x : Nat) (committed : BitVec 64) (undecided : Bool) (logs : StateLogs)
  | herdWaitLimitExpiry (h : Nat)
  | keepalive
  | keepaliveTimeout (noRoute : Bool)
  | collectiveNode (msg : CollMsg)
  | herdCtxNode (msg : CtxNodesMsg)
  | checkpointPage (x : Nat) (step : BitVec 64) (page : Nat) (bytes : List (BitVec 8))
  | checkpointConfirm (side : ConfirmSide)
  | restoreQuery (msg : RestoreMsg)
  | twinHbOutToggle
  | keyCommandDone
  | restorePage (page : Nat) (bytes : List (BitVec 8))
  | herdCtxResult (k : Nat) (words : BitVec 64 × BitVec 64) (ev : BitVec 3)
  | blockLockLoss (p : Nat)
  | backInvalidate (e : Nat)
  | l1Fill (e : Nat) (victim : Option Nat)
  | dramWriteDone
  | sramCe (unit off : Nat)
  | smbUnknownCommand (code : BitVec 8)
  | msixVectorUnmask (f v : Nat)
  deriving DecidableEq, Repr

end Sys2Proof
end

