-- ==== Sys2Proof/Decode.lean ====
section
/-!
DEFINITION. Decoding of a command from the bits of spec/opcode_table.json: the table gives bits for none of its rows, so no
word spells a command.
-/
namespace Sys2Proof

/-- The command a word spells by the table's bits: the table gives bits for none of its rows. -/
def decodeTableWord (_nbits _w : Nat) : Option Instr := none

end Sys2Proof
end

