-- ==== Sys2Proof/Config.lean ====
section
/-!
DEFINITION. What one device fixes and what the manual leaves open. An opaque constant has no body: no proof and no
evaluation can see its value, so a statement about a model that reads it holds for every value.
-/
namespace Sys2Proof.Config

/-- GLB_SERIAL: fused per device, no value given (14 Table REG-3). Free value, log 19. -/
opaque serial : BitVec 64

/-- The voltage code fused for the part, one of the codes 0 to 8 (15 R409). Free value, log 19. -/
opaque vidFused : Fin 9

/-- The voltage code that an engine clock of n sixteenths of its rated frequency needs at a junction temperature in 1/8 °C: the
manual gives no values (15 R409). Free value, log 54. -/
opaque vidNeed (n : Nat) (temp : Int) : Fin 9

/-- The boundary-register cell of a pin: the manual gives no order (15 R420). Free value, log 15. -/
opaque boundaryCell (pin : Nat) : Fin 32

/-- The error of the 34-bit value of a special-function kernel, in units of its last place, for function `f` at the
argument `(-1)^neg * m * 2^e` (02 R35, 05 R111, R112). Free value within the bound of R35; the model discards a value that
breaks the bound. Log 20. -/
opaque kernelOff (f : Nat) (neg : Bool) (m : Nat) (e : Int) : Int

/-- The generator value of one SR_FREE rounding: `n` is the state's counter of free values, `w` the rounding's locator
(02 R32, 04 R97, 09 R251). Free value, log 21. -/
opaque laneRandom (n w : Nat) : BitVec 16

/-- The device's random bit generator: keys of KEY_GENERATE and nonces (13 R354, R364). Free value, log 22. -/
opaque drbg (n : Nat) : BitVec 512

/-- A byte whose contents the manual leaves unspecified or without a layout: elements of a stash payload that is
invalid or was written after decode without ordering (R425), overflow frames (R428), bank bytes (R186), the rounding of a
stash record (R228), debug windows and scan chains (R367, R397). Free value, log 23. -/
opaque openByte (n i : Nat) : BitVec 8

/-- The SECDED syndrome logged with a corrected word (13 Table SEC-9): no values given. Free value, log 23. -/
opaque syndrome (unit offset : Nat) : BitVec 64

/-- The array code logged with ENGINE_UE (13 Table SEC-9): no values given. Free value, log 23. -/
opaque arrayCode (array : Nat) : BitVec 64

/-- Correction of the herd-time rate at one tick, in 2^-16 ticks: the manual bounds it by 1,000 ppm and gives no rule for
its value (10 R295). Free value, log 25. -/
opaque steer (n : Nat) : Int

/-- MSI-X vectors one function's table may name. The part has 2,048 in all (01 Table ARC-2); the manual gives no split
among the functions. DESIGN CHOICE, log 24. -/
def msixTableSize : Nat := 2048

/-- MSG of a message: the manual gives no values (10 Table HRD-1). Free value, log 60. -/
opaque msgCode (name : String) : BitVec 8

/-- STREAM of a message, its operation and chunk: the manual gives no encoding (10 Table HRD-1). Free value, log 60. -/
opaque streamId (name : String) (args : List Nat) : BitVec 64

/-- Marks that no herd ID, port or function is meant (10 Tables HRD-1, HRD-6; 14 REG-22). -/
def noId : Nat := 0xFF

end Sys2Proof.Config
end

