-- ==== Sys2Proof/Machine/Num.lean ====
section
/-!
DEFINITION. Numbers: exact values, the seven storage formats and rounding (02_number_formats_and_rounding).
A value is exact; it is rounded only where a rule says so. A quotient, a root or a function value that has no finite
binary expansion carries one more bit, always set, below at least 128 exact ones: it lies on the same side of every
rounding boundary as the exact value.
-/
namespace Sys2Proof.Machine

/-- An exact value: NaN, an infinity, or (-1)^neg * m * 2^e. Zero has a sign (R47). -/
inductive Val where
  | nan
  | inf (neg : Bool)
  | fin (neg : Bool) (m : Nat) (e : Int)
  deriving DecidableEq, Repr

/-- Format codes (R26, Table FMT-1). -/
inductive Fmt where
  | fp32 | bf16 | fp16 | e4m3 | e5m2 | int8 | int16
  deriving DecidableEq, Repr

/-- A format descriptor (R160, Table OPC-2): code, OVF_MODE, DAZ, FTZ, SCALE. -/
structure Desc where
  fmt : Fmt
  sat : Bool := false
  daz : Bool := false
  ftz : Bool := false
  scale : Int := 0
  deriving DecidableEq, Repr

/-- A rounding mode at one rounding point, with its random value where it is stochastic (R31, R32). -/
inductive Rnd where
  | rne
  | rtz
  | sr (r : Nat)
  deriving DecidableEq, Repr

/-- Reply flags (03 Table CMD-5). -/
structure Flags where
  ovf : Bool := false
  sat : Bool := false
  nanSeen : Bool := false
  emptyRow : Bool := false
  dupFill : Bool := false
  deriving DecidableEq, Repr

def Flags.none : Flags := {}

def Flags.or (a b : Flags) : Flags :=
  { ovf := a.ovf || b.ovf, sat := a.sat || b.sat, nanSeen := a.nanSeen || b.nanSeen,
    emptyRow := a.emptyRow || b.emptyRow, dupFill := a.dupFill || b.dupFill }

/-- Status OK_FLAGS is due (R74, R43): OVF, SAT or NAN_SEEN; EMPTY_ROW and DUP_FILL are not counted (R76 Edges). -/
def Flags.any (a : Flags) : Bool := a.ovf || a.sat || a.nanSeen

/-- Number of bits of m: 0 for 0. -/
def bitLen (m : Nat) : Nat := if m = 0 then 0 else Nat.log2 m + 1

namespace Val

def zero : Val := .fin false 0 0
def negZero : Val := .fin true 0 0
def one : Val := .fin false 1 0

def ofNat (n : Nat) : Val := .fin false n 0
def ofInt (i : Int) : Val := .fin (i < 0) i.natAbs 0

def isNan : Val → Bool
  | .nan => true
  | _ => false

def isInf : Val → Bool
  | .inf _ => true
  | _ => false

def isZero : Val → Bool
  | .fin _ m _ => m == 0
  | _ => false

def isNeg : Val → Bool
  | .nan => false
  | .inf n => n
  | .fin n _ _ => n

def neg : Val → Val
  | .nan => .nan
  | .inf n => .inf (!n)
  | .fin n m e => .fin (!n) m e

def abs : Val → Val
  | .nan => .nan
  | .inf _ => .inf false
  | .fin _ m e => .fin false m e

/-- The signed integer m * 2^(e - low). -/
def scaled (n : Bool) (m : Nat) (e low : Int) : Int :=
  let k : Nat := m <<< (e - low).toNat
  if n then - (k : Int) else k

/-- Exact sum (R45, R47): infinities of opposite sign are invalid, a cancelled sum is +0, zeros of one sign keep it. -/
def add : Val → Val → Val
  | .nan, _ => .nan
  | _, .nan => .nan
  | .inf a, .inf b => if a = b then .inf a else .nan
  | .inf a, _ => .inf a
  | _, .inf b => .inf b
  | .fin na ma ea, .fin nb mb eb =>
    if ma = 0 ∧ mb = 0 then .fin (na && nb) 0 0
    else if ma = 0 then .fin nb mb eb
    else if mb = 0 then .fin na ma ea
    else
      let low := min ea eb
      let s := scaled na ma ea low + scaled nb mb eb low
      .fin (s < 0) s.natAbs low

def sub (a b : Val) : Val := add a b.neg

/-- Exact product (R45, R47). -/
def mul : Val → Val → Val
  | .nan, _ => .nan
  | _, .nan => .nan
  | .inf a, .inf b => .inf (a != b)
  | .inf a, .fin nb mb _ => if mb = 0 then .nan else .inf (a != nb)
  | .fin na ma _, .inf b => if ma = 0 then .nan else .inf (na != b)
  | .fin na ma ea, .fin nb mb eb => .fin (na != nb) (ma * mb) (ea + eb)

/-- Quotient (R45): exact where it terminates within the kept bits, else with the set bit below. -/
def div : Val → Val → Val
  | .nan, _ => .nan
  | _, .nan => .nan
  | .inf _, .inf _ => .nan
  | .inf a, .fin nb _ _ => .inf (a != nb)
  | .fin na _ _, .inf b => .fin (na != b) 0 0
  | .fin na ma ea, .fin nb mb eb =>
    if mb = 0 then (if ma = 0 then .nan else .inf (na != nb))
    else if ma = 0 then .fin (na != nb) 0 0
    else
      let s := 200 + bitLen mb
      let q := (ma <<< s) / mb
      let r := (ma <<< s) % mb
      .fin (na != nb) (2 * q + (if r = 0 then 0 else 1)) (ea - eb - s - 1)

/-- Newton's iteration for the integer square root. -/
def isqrtStep (n : Nat) : Nat → Nat → Nat
  | 0, x => x
  | fuel + 1, x =>
    let y := (x + n / x) / 2
    if y < x then isqrtStep n fuel y else x

/-- Greatest integer whose square is at most n. -/
def isqrt (n : Nat) : Nat := if n = 0 then 0 else isqrtStep n 200 (1 <<< (bitLen n / 2 + 1))

/-- Square root; negative values other than -0 are outside the domain (R118). -/
def sqrt : Val → Val
  | .nan => .nan
  | .inf n => if n then .nan else .inf false
  | .fin n m e =>
    if m = 0 then .fin n 0 0
    else if n then .nan
    else
      let s : Nat := 400 + (if e % 2 = 0 then 0 else 1)
      let v := m <<< s
      let q := isqrt v
      .fin false (2 * q + (if q * q = v then 0 else 1)) ((e - s) / 2 - 1)

/-- Order on numbers; +0 equals -0 (02 Edges of R47). Only for values that are not NaN. -/
def lt : Val → Val → Bool
  | .nan, _ => false
  | _, .nan => false
  | .inf a, .inf b => a && !b
  | .inf a, _ => a
  | _, .inf b => !b
  | .fin na ma ea, .fin nb mb eb =>
    let low := min ea eb
    decide (scaled na ma ea low < scaled nb mb eb low)

/-- Numerically equal. -/
def eqv (a b : Val) : Bool := !a.isNan && !b.isNan && !lt a b && !lt b a

def le (a b : Val) : Bool := !a.isNan && !b.isNan && !lt b a

/-- m * 2^e multiplied by 2^k. -/
def scaleB (k : Int) : Val → Val
  | .fin n m e => .fin n m (e + k)
  | v => v

end Val

/-- m / 2^k rounded to an integer (R31, R32). -/
def roundShift (md : Rnd) (m k : Nat) : Nat :=
  let a := m >>> k
  let d := m - (a <<< k)
  if d = 0 then a else
  match md with
  | .rne =>
    let half := 1 <<< (k - 1)
    if d > half ∨ (d = half ∧ a % 2 = 1) then a + 1 else a
  | .rtz => a
  | .sr r =>
    let f := (d <<< 16) >>> k
    if r ≥ 65536 - f then a + 1 else a

/-- The magnitude m * 2^e rounded to p significand bits, no unit smaller than 2^qmin: (integer, exponent of its unit). -/
def quantize (md : Rnd) (p : Nat) (qmin : Int) (m : Nat) (e : Int) : Nat × Int :=
  let q := max qmin (e + bitLen m - p)
  if e ≥ q then (m <<< (e - q).toNat, q) else (roundShift md m (q - e).toNat, q)

/-- Rounded to p significand bits with an unbounded exponent (R35: the internal formats hold no subnormal). -/
def Val.roundP (p : Nat) (md : Rnd) : Val → Val
  | .fin n m e =>
    if m = 0 then .fin n 0 0
    else
      let (k, q) := quantize md p (e - p - 1) m e
      .fin n k q
  | v => v

/-- The tree's internal format (R35). -/
def Val.round53 (v : Val) : Val := v.roundP 53 .rne

/-- The special-function kernel's internal format (R35). -/
def Val.round34 (v : Val) : Val := v.roundP 34 .rne

namespace Fmt

/-- Element size in bytes (R29). -/
def bytes : Fmt → Nat
  | .fp32 => 4
  | .bf16 | .fp16 | .int16 => 2
  | .e4m3 | .e5m2 | .int8 => 1

def bits (f : Fmt) : Nat := 8 * f.bytes

def isInt : Fmt → Bool
  | .int8 | .int16 => true
  | _ => false

/-- Significand width with the implicit bit (Table FMT-2). -/
def prec : Fmt → Nat
  | .fp32 => 24 | .bf16 => 8 | .fp16 => 11 | .e4m3 => 4 | .e5m2 => 3 | .int8 => 8 | .int16 => 16

/-- Exponent of the smallest subnormal (Table FMT-3). -/
def qmin : Fmt → Int
  | .fp32 => -149 | .bf16 => -133 | .fp16 => -24 | .e4m3 => -9 | .e5m2 => -16 | .int8 => 0 | .int16 => 0

/-- Encoding of the largest finite magnitude (Table FMT-3); the largest integer of the integer formats (R28). -/
def maxEnc : Fmt → Nat
  | .fp32 => 0x7F7FFFFF | .bf16 => 0x7F7F | .fp16 => 0x7BFF | .e4m3 => 0x7E | .e5m2 => 0x7B
  | .int8 => 127 | .int16 => 32767

/-- Encoding of +Infinity, where the format has one. -/
def infEnc : Fmt → Option Nat
  | .fp32 => some 0x7F800000 | .bf16 => some 0x7F80 | .fp16 => some 0x7C00 | .e5m2 => some 0x7C
  | _ => none

/-- Canonical NaN (R44); an integer destination writes 0 (R46). -/
def nanEnc : Fmt → Nat
  | .fp32 => 0x7FC00000 | .bf16 => 0x7FC0 | .fp16 => 0x7E00 | .e4m3 => 0x7F | .e5m2 => 0x7E
  | .int8 | .int16 => 0

def ofCode : Nat → Option Fmt
  | 0 => some .fp32 | 1 => some .bf16 | 2 => some .fp16 | 3 => some .e4m3 | 4 => some .e5m2
  | 5 => some .int8 | 6 => some .int16
  | _ => none

def code : Fmt → Nat
  | .fp32 => 0 | .bf16 => 1 | .fp16 => 2 | .e4m3 => 3 | .e5m2 => 4 | .int8 => 5 | .int16 => 6

end Fmt

/-- The value of an element's bits (R27, R28, R36, R37). -/
def Desc.read (d : Desc) (b : Nat) : Val :=
  let w := d.fmt.bits
  let b := b % 2 ^ w
  if d.fmt.isInt then
    let neg := b ≥ 2 ^ (w - 1)
    if neg then .fin true (2 ^ w - b) d.scale else .fin false b d.scale
  else
    let neg := b ≥ 2 ^ (w - 1)
    let mag := b % 2 ^ (w - 1)
    let fb := d.fmt.prec - 1
    let ex := mag >>> fb
    let fr := mag % 2 ^ fb
    match d.fmt.infEnc with
    | some ie =>
      if mag = ie then .inf neg
      else if mag > ie then .nan
      else if ex = 0 then (if d.daz then .fin neg 0 0 else .fin neg fr d.fmt.qmin)
      else .fin neg (2 ^ fb + fr) (d.fmt.qmin + ex - 1)
    | none =>
      if mag = 0x7F then .nan
      else if ex = 0 then (if d.daz then .fin neg 0 0 else .fin neg fr d.fmt.qmin)
      else .fin neg (2 ^ fb + fr) (d.fmt.qmin + ex - 1)

/-- Encoding of a rounded magnitude k * 2^q, the exponent unbounded above. -/
def Fmt.enc (f : Fmt) (k : Nat) (q : Int) : Nat :=
  let top := 2 ^ (f.prec - 1)
  if k < top then k else (q - f.qmin + 1).toNat * top + (k - top)

/-- An infinite or overflowing magnitude written as the largest finite value, with SAT (R40, R41). -/
def Fmt.satEnc (f : Fmt) (neg : Bool) : Nat × Flags :=
  ((if neg then 2 ^ (f.bits - 1) else 0) + f.maxEnc, { sat := true })

/-- An integer result (R28, R42). -/
def Desc.writeInt (d : Desc) (md : Rnd) (v : Val) : Nat × Flags :=
  let w := d.fmt.bits
  let top := d.fmt.maxEnc
  match v with
  | .nan => (0, { nanSeen := true })
  | .inf n => (if n then top + 1 else top, { sat := true })
  | .fin n m e =>
    let e := e - d.scale
    let k := if e ≥ 0 then m <<< e.toNat else roundShift md m (-e).toNat
    if n then
      if k > top + 1 then (top + 1, { sat := true }) else ((2 ^ w - k) % 2 ^ w, {})
    else if k > top then (top, { sat := true }) else (k, {})

/-- A value rounded once to a destination and written (R30, R38 to R42, R44, R46): the bits and the flags. -/
def Desc.write (d : Desc) (md : Rnd) (v : Val) : Nat × Flags :=
  if d.fmt.isInt then d.writeInt md v
  else
    let sgn (n : Bool) : Nat := if n then 2 ^ (d.fmt.bits - 1) else 0
    match v with
    | .nan => (d.fmt.nanEnc, { nanSeen := true })
    | .inf n =>
      match d.fmt.infEnc with
      | some ie => if d.sat then d.fmt.satEnc n else (sgn n + ie, {})
      | none => d.fmt.satEnc n
    | .fin n m e =>
      if m = 0 then (sgn n, {})
      else
        let (k, q) := quantize md d.fmt.prec d.fmt.qmin m e
        let b := d.fmt.enc k q
        if b > d.fmt.maxEnc then
          match d.fmt.infEnc, md with
          | some ie, .rne => if d.sat then d.fmt.satEnc n else (sgn n + ie, {})
          | some ie, .sr _ => if d.sat then d.fmt.satEnc n else (sgn n + ie, {})
          | _, _ => d.fmt.satEnc n
        else if d.ftz ∧ b < 2 ^ (d.fmt.prec - 1) then (sgn n, {})
        else (sgn n + b, {})

/-- Rounding a finite value under this mode overflows the format (R40). -/
def Desc.overflows (d : Desc) (md : Rnd) : Val → Bool
  | .fin _ m e =>
    if m = 0 then false
    else
      let (k, q) := quantize md d.fmt.prec d.fmt.qmin m e
      decide (d.fmt.enc k q > d.fmt.maxEnc)
  | _ => false

/-- FP32 as the device's own working word. -/
def fp32 : Desc := { fmt := .fp32 }

/-- The value of an FP32 word. -/
def f32val (w : BitVec 32) : Val := fp32.read w.toNat

/-- A value rounded to an FP32 word. -/
def f32enc (md : Rnd) (v : Val) : BitVec 32 := BitVec.ofNat 32 (fp32.write md v).1

/-- A value rounded to FP32 under RNE, as a value. -/
def Val.to32 (v : Val) : Val := f32val (f32enc .rne v)

/-- Little-endian bytes of a number (R9). -/
def leBytes : Nat → Nat → List (BitVec 8)
  | 0, _ => []
  | n + 1, v => BitVec.ofNat 8 v :: leBytes n (v / 256)

/-- The number held in little-endian bytes (R9). -/
def ofBytes : List (BitVec 8) → Nat
  | [] => 0
  | b :: bs => b.toNat + 256 * ofBytes bs

end Sys2Proof.Machine
end

