-- ==== Sys2Proof/Machine/Types.lean ====
section
/-!
DEFINITION. The plain data of packets, contexts, engines and memory that State holds (03, 04, 08, 11).
-/
namespace Sys2Proof.Machine

/-- A ranked candidate (06 R152, Table ROW-5): FP32 value and element index. -/
structure Rank where
  v : BitVec 32
  idx : Nat
  deriving DecidableEq, Repr

/-- A held accumulator: candidates n, running maximum m (SOFTMAX) with the index of the element it came from (R87), words as
(HI, LO) pairs (LO is +0 in RESIDENT_SINGLE), ranked list (04 Table ACC-3). -/
structure Node where
  n : Nat := 0
  m : BitVec 32 := 0
  mi : Nat := 0
  ws : List Pair := []
  best : List Rank := []
  deriving DecidableEq, Repr

/-- What one tile's tree gives, in the internal format, before it is held (04 R86, 06 R134, R142). -/
structure RawTile where
  n : Nat := 0
  m : BitVec 32 := 0
  mi : Nat := 0
  vs : List Val := []
  best : List Rank := []
  deriving DecidableEq, Repr

/-- A node of the CANONICAL tree that waits for its sibling (04 R94): in its level slot, or in the pending area. -/
structure TNode where
  level : Nat
  pos : Nat
  node : Node
  pend : Bool := false
  deriving DecidableEq, Repr

/-- Accumulated state of a context: the running words of a RESIDENT mode, the ranked list of the KINDs of R156, and the
waiting nodes of CANONICAL. -/
structure Acc where
  run : Node := {}
  nodes : List TNode := []
  deriving DecidableEq, Repr

/-- State of a context slot that is not FREE (04 Table ACC-2). -/
inductive CtxSt where
  | opened | ended | closing
  deriving DecidableEq, Repr

/-- A Row Context (04 R77, R78). A slot with no entry here is FREE. -/
structure Ctx where
  handle : Nat
  st : CtxSt := .opened
  mode : Nat
  kind : Nat
  outFmt : Nat := 0
  rnd : Nat := 0
  ovf : Bool := false
  nanSeen : Bool := false
  chained : Bool := false
  companion : Bool := false
  successor : Bool := false       -- second slot of a chained TOPK pair
  part : Nat
  cls : Nat
  hop : Nat
  chain : Nat := 0
  tag : BitVec 16 := 0
  keyword : BitVec 64 := 0
  rowKey : BitVec 64 := 0              -- ROW_KEY of an explicit context
  tiles : Nat := 0
  count : Nat := 0
  dir : Bool := false
  nanRank : Bool := false
  k : Nat := 0
  owner : Option (Nat × Nat) := none   -- packet and row of an implicit context
  lost : Bool := false
  herd : Bool := false                 -- a herd context (10 R303)
  acc : Acc := {}
  record : Option (Nat × Nat) := none     -- record page and slot on the home engine
  feeds : List Nat := []               -- feeds decoded and not yet finished, in decode order
  heldSt : CtxSt := .opened            -- the state to return to if a close fails (R82)
  deriving DecidableEq, Repr

/-- A reply status (03 Table CMD-6). -/
inductive Status where
  | ok | okFlags | badOpcode | badParam | badHandle | ctxExhausted | memFault | eccUncorr | protectedDenied
  | herdMismatch | herdTimeout | commitAborted | engineFenced | debugLocked | internal
  deriving DecidableEq, Repr

/-- What a packet waits for beside dispatch. -/
inductive Wait where
  | none
  | ctx                      -- a context slot (R76)
  | fence (last : Nat)       -- the wait of a FENCE; last value read
  | feeds                    -- CTX_CLOSE and CTX_QUERY: earlier feeds of the context
  | herd                     -- messages of the twin or the herd
  | drain                    -- sectors on their way to DRAM, or reads in flight
  | engines                  -- ENGINE_FENCE: segment ends of the named engines
  deriving DecidableEq, Repr

/-- Where a fetched packet stands. -/
inductive Stage where
  | fetched
  | decoded                  -- decoded, not dispatched
  | running
  | ended                    -- its reply is due
  deriving DecidableEq, Repr

/-- A row in progress of a row operation, or the one row of a feed. -/
structure RowSt where
  row : Nat
  home : Nat
  handle : Option Nat := none
  parts : List (Nat × Nat) := []        -- companions of a RESIDENT split: part number, handle
  phase : Nat := 0
  begun : Nat := 0                      -- tiles whose node has been formed in this phase
  seen : Nat := 0                       -- tiles absorbed in this phase
  folded : List (Nat × Nat) := []       -- of them by part of a RESIDENT split
  stats : List (BitVec 32) := []        -- final words of the finished phases
  cands : Nat := 0                      -- candidates of the row
  outs : Nat := 0                       -- output tiles drained
  deriving DecidableEq, Repr

/-- Progress of a packet that runs as segments (03 R66). -/
structure Work where
  row : Nat := 0       -- next segment: row, tile and pass it begins at, and its number
  tile : Nat := 0
  pass : Nat := 0
  k : Nat := 0
  cut : Bool := false  -- every segment has been cut
  live : Nat := 0      -- segments on engines
  done : Nat := 0      -- segments completed
  back : List (Nat × Nat × Nat × Nat × Nat) := []  -- segments handed back by a fenced engine: row, tile, count, pass, k
  rows : List RowSt := []
  finished : Nat := 0  -- rows whose outputs are written
  empty : Nat := 0
  short : Nat := 0
  m : List Nat := []   -- the partition's unfenced engines when the packet began (RESIDENT assignment)
  deriving DecidableEq, Repr

/-- A fetched packet that has not been replied to. -/
structure Pkt where
  id : Nat                       -- fetch order
  hop : Nat
  cls : Nat
  part : Nat
  func : Nat
  dw : List (BitVec 32)
  stage : Stage := .fetched
  seed : BitVec 64 := 0          -- the partition's seed at decode (R95)
  wait : Wait := .none
  waits : List Nat := []         -- engines on which a row of it waits for a context slot
  time0 : BitVec 64 := 0         -- time at dispatch
  work : Option Work := none
  status : Status := .ok
  flags : Flags := {}
  ctx : Nat := 0
  r0 : BitVec 64 := 0
  r1 : BitVec 64 := 0
  pos : Nat := 0                 -- CTX_FEED: first tile position assigned
  secs : List Nat := []          -- sectors of FLUSH_RANGE still to reach DRAM
  hdr : List (BitVec 8) := []    -- STASH_LOAD: the record header as read at decode
  pay0 : Option (List (BitVec 8)) := none   -- STASH_LOAD: the payload at decode, where no order holds the packet back (R425)
  shadow : List (Nat × List (BitVec 8)) := []   -- COPY: source bytes it has overwritten as they were, oldest first (07 R179)
  recd : Bool := false           -- it is being recorded for replay
  pages0 : List (Nat × BitVec 4) := []         -- the parameter pages' state at its dispatch, while recorded
  rdLog : List (Nat × List (BitVec 8)) := []   -- what it has read and written while recorded
  wrLog : List (Nat × List (BitVec 8)) := []
  deriving DecidableEq, Repr

/-- A Hopper (03 R48, 14 R384). -/
structure Hopper where
  en : Bool := false
  cls : Nat := 0
  loc : Bool := false
  stopOnErr : Bool := false
  errIrq : Bool := false
  part : Nat := 0
  func : Nat := 0
  cmdLog2 : Nat := 6
  cplLog2 : Nat := 6
  halted : Bool := false
  classRefused : Bool := false
  dbErr : Bool := false
  dbDrop : Bool := false
  cplFull : Bool := false
  cmdBase : BitVec 64 := 0
  cplBase : BitVec 64 := 0
  head : Nat := 0
  tail : Nat := 0
  cplTail : Nat := 0
  cplHead : Nat := 0
  done : BitVec 32 := 0
  irqVec : Nat := 0
  irqTime : Nat := 0
  irqCount : Nat := 1
  irqSeen : Nat := 0
  phase : Bool := true
  deferred : Option (Nat × BitVec 32) := none   -- fields of an EN-clearing write (14 R385), with its function
  deriving DecidableEq, Repr

/-- A segment on an engine (03 R66): the tile it is at, and the tiles it still holds. -/
structure Seg where
  pkt : Nat
  k : Nat
  urgent : Bool
  row0 : Nat
  tile0 : Nat
  count : Nat
  pass0 : Nat
  row : Nat
  tile : Nat
  pass : Nat
  left : Nat               -- tiles of this segment not yet begun in the last pass
  wrote : Bool := false    -- it has overwritten some of its own input (R69)
  pages : List Nat := []   -- its 32 staging pages (08 R196)
  perCl : List (Nat × Nat) := []   -- tiles each cluster has run of it (R66)
  fin : Nat := 0           -- rows it has finished, of them empty and short ones
  emp : Nat := 0
  shrt : Nat := 0
  drained : Nat := 0       -- its output tiles drained
  deriving DecidableEq, Repr

/-- A tile or node result on its way to a combine unit (04 R94). -/
structure NodeMsg where
  pkt : Nat
  row : Nat
  pos : Nat                -- tile position in the row or context
  phase : Nat
  part : Nat               -- part of a RESIDENT split
  raw : RawTile
  flags : Flags
  eng : Nat                -- engine and cluster that formed it
  cluster : Nat
  deriving DecidableEq, Repr

/-- A completed tile in a bank (04 R88): what its drain writes, its flags, its node. -/
structure TileOut where
  pkt : Nat
  row : Nat
  tile : Nat
  pass : Nat
  last : Bool                              -- the output pass of this tile
  empty : Bool := false                    -- a row of one tile: written as empty, or short of k candidates
  short : Bool := false
  whole : Bool := false                    -- a row of one tile: the row is finished with it
  writes : List (Nat × List (BitVec 8))
  flags : Flags
  deriving DecidableEq, Repr

/-- The two banks of one cluster (04 R88): tiles they hold, and the marks of what was last accumulated in them (13 R367;
none: zeros). A cluster not listed has both empty and zero. -/
structure Bank where
  cluster : Nat
  working : Option TileOut := none
  tail : Option TileOut := none
  wMark : Option Nat := none
  tMark : Option Nat := none
  deriving DecidableEq, Repr

/-- Where a record page is (08 R198). -/
inductive PageAt where
  | resident (page : Nat)
  | frame (f : Nat)
  deriving DecidableEq, Repr

/-- A record page: its partition, its place, the contexts whose records its slots hold, its last use (08 R196, R197). -/
structure RecPage where
  id : Nat
  part : Nat
  at_ : PageAt
  slots : List (Nat × Nat)     -- slot, handle
  used : Nat
  deriving DecidableEq, Repr

/-- A page move in progress (08 R198). -/
inductive PageMove where
  | out (id : Nat) (frame : Nat)
  | into (id : Nat) (page : Nat)
  deriving DecidableEq, Repr

/-- A line of an L1 (08 R202, R217): location of the line, kept fill epoch, sectors held. -/
structure L1Line where
  line : Nat
  epoch : BitVec 2
  secs : List (Option Sector)
  deriving DecidableEq, Repr

/-- Power state of an engine (12 R330). -/
inductive Power where
  | active | idle | doze | deep
  deriving DecidableEq, Repr

/-- An engine (01 R14, 14 R387). -/
structure Engine where
  fenced : Bool := false
  passed : Bool := true
  cause : Nat := 0
  power : Power := .idle
  tilesDone : BitVec 64 := 0
  peak : Nat := 0
  run : Option Seg := none
  susp : Option Seg := none
  stopping : Bool := false                  -- ENGINE_FENCE waits for its segment's end
  since : Nat := 0                          -- L2 fills when its tile at hand began (08 R216)
  banks : List Bank := []
  inbox : List NodeMsg := []                -- results on the way to the combine unit, oldest first
  blocked : List NodeMsg := []              -- results waiting for a pending-area entry
  pages : List RecPage := []
  nextPage : Nat := 0                       -- number given to the next record page
  useClock : Nat := 0
  move : Option PageMove := none
  l1 : List L1Line := []                    -- least recently used first
  fills : List L1Line := []                 -- fills on their way to the L1
  notices : List (Nat × BitVec 2) := []     -- eviction notices on their way to L2: line, kept epoch
  binv : List (Nat × Option Nat) := []      -- back-invalidates on their way to the L1: line, packet of the write
  answers : List (Nat × Option Nat) := []   -- their answers on the way to L2
  deriving DecidableEq, Repr

/-- One sector of an L2 line (08 R204, R209, R216). -/
structure L2Sec where
  valid : Bool := false
  dirty : Bool := false
  written : Bool := false
  filled : Bool := false        -- a read has filled it (08 R216): the number of that fill, and whose read it was
  no : Nat := 0
  who : Nat := 0
  poison : Bool := false
  data : Sector := 0
  deriving DecidableEq, Repr

/-- An L2 line (08 R204 to R217). `line` is its stack location / 128, `addr` its device address / 128. -/
structure L2Line where
  line : Nat
  addr : Nat
  owner : Nat
  win : Option Nat := none      -- window whose persistent line it is
  born : Nat := 0               -- order of fill
  pres : BitVec 8 := 0
  epoch : BitVec 2 := 0
  secs : List L2Sec
  deriving DecidableEq, Repr

/-- Hint of an access (08 Table MEM-3). -/
inductive Hint where
  | keep | normal | evictFirst
  deriving DecidableEq, Repr

/-- An HBM read in flight (08 R216): sector location / 32, device address / 32, operand address, hint, packet, partition. -/
structure Flight where
  sec : Nat
  addr : Nat
  op : Nat
  hint : Hint
  pkt : Option Nat
  part : Option Nat
  deriving DecidableEq, Repr

/-- A dirty sector on its way to DRAM (08 R205, R221), as DRAM will hold it. -/
structure WriteBack where
  sec : Nat
  data : Sector
  poison : Bool
  deriving DecidableEq, Repr

/-- HBM and L2. -/
structure Mem where
  hbm : List Host.Cell := []            -- by stack location; a byte not listed is 0
  poison : List Nat := []               -- poisoned sectors of DRAM, location / 32, rising
  wq : List WriteBack := []             -- oldest first
  flight : List Flight := []
  lines : List L2Line := []             -- least recently used first
  born : Nat := 0
  fills : Nat := 0                      -- sectors filled by reads so far
  barMark : Nat := 0                    -- fills when the last BAR2 read completed
  selfRefresh : List Bool := [false, false, false, false]
  owner : List Nat := List.replicate 96 0xF
  deriving DecidableEq, Repr

/-- A persistence window (08 R210, 14 R386). -/
structure Window where
  base : Nat := 0
  size : Nat := 0
  enable : Bool := false
  cls : Nat := 2
  quota : Nat := 0
  demoted : Bool := false
  part : Nat := 0
  short : BitVec 32 := 0
  deriving DecidableEq, Repr

/-- A partition (11 R305 to R314, 08 R202, R215, 04 R95). -/
structure Part where
  mapped : Bool := false
  mask : BitVec 8 := 0
  func : Nat := 0
  spread : Bool := false
  tickPin : Bool := false
  demoteEn : Bool := false
  epochCount : BitVec 32 := 0
  frameCount : BitVec 32 := 0
  frameTime : BitVec 64 := 0
  frameMirror : BitVec 64 := 0
  seed : BitVec 64 := 0
  limit : Nat := 0                      -- PRESSURE_LIMIT
  accesses : Nat := 0
  misses : Nat := 0
  closed : List Bool := []              -- monitor windows that have ended, oldest first: above the limit
  above : Nat := 0                      -- consecutive windows above the limit
  pressure : Bool := false              -- CACHE_PRESSURE_p
  dupFill : BitVec 32 := 0
  roBase : List (BitVec 64) := [0, 0, 0, 0]
  roSize : List (BitVec 64) := [0, 0, 0, 0]
  roLatched : List (Nat × Nat) := []
  ovBase : Nat := 0
  ovSize : Nat := 0
  frames : List Nat := []               -- overflow frames in use
  pageOuts : BitVec 32 := 0
  pageIns : BitVec 32 := 0
  hint : Option (Nat × Nat) := none     -- SLEEP_HINT granted: state, duration
  deriving DecidableEq, Repr

end Sys2Proof.Machine
end

