-- ==== Sys2Proof/Machine/Types2.lean ====
section
/-!
DEFINITION. The plain data of errors, protection, power, start and pins that State holds (12, 13, 14, 15).
-/
namespace Sys2Proof.Machine

/-- An ERRLOG entry (13 Table SEC-7). CAUSE 0 is an empty entry. -/
structure ErrEntry where
  cause : Nat := 0
  cls : Nat := 0
  part : Option Nat := none
  hopper : Nat := 0xFF
  unit : Nat := 0x40
  tag : BitVec 16 := 0
  status : Nat := 0
  count : Nat := 0
  a : BitVec 64 := 0
  b : BitVec 64 := 0
  time : BitVec 64 := 0
  deriving DecidableEq, Repr

/-- The ERRLOG block (13 R371, R372, 14 R396). -/
structure ErrLog where
  entries : List ErrEntry := List.replicate 256 { hopper := 0, unit := 0 }    -- by ring index
  head : Nat := 0                  -- ring index of the next entry
  lost : BitVec 32 := 0
  mask : Nat := 0x30
  vec : Nat := 0
  deriving DecidableEq, Repr

/-- A Key Store slot (13 R353). -/
structure KeySlot where
  state : Nat := 0                 -- 0 EMPTY, 1 ASSIGNED, 2 LOADED
  owner : Nat := 0
  key1 : BitVec 256 := 0
  key2 : BitVec 256 := 0
  deriving DecidableEq, Repr

/-- A protected region (13 R355, 14 Table REG-24). -/
structure Region where
  enable : Bool := false
  slot : Nat := 0
  base : Nat := 0
  size : Nat := 0
  deriving DecidableEq, Repr

/-- A key command accepted and not finished (13 R354, 14 R394): it takes effect as it finishes. -/
structure KeyCmd where
  func : Nat
  cmd : Nat
  slot : Nat
  owner : Nat
  key1 : BitVec 256
  key2 : BitVec 256
  dbg : Bool                       -- issued in DEBUG_OPEN
  deriving DecidableEq, Repr

/-- Per-function registers of the SEC block (14 Table REG-24). -/
structure KeyFunc where
  data : BitVec 512 := 0           -- KEY_DATA_0 in bits [31:0]
  refused : Bool := false
  busy : Bool := false
  deriving DecidableEq, Repr

/-- A fuse operation in progress (13 R362). -/
inductive FuseOp where
  | revoke (i : Nat)
  | rollback
  | disableDebug
  deriving DecidableEq, Repr

/-- Fuses as programmed, and as latched at the last cold start (13 R361, R362); SERIAL is Config.serial. -/
structure Fuses where
  keyHash : List (BitVec 384) := [0, 0, 0, 0]
  debugKeyHash : BitVec 384 := 0
  revoke : BitVec 4 := 0
  rollback : Nat := 0
  debugDisable : Bool := false
  deriving DecidableEq, Repr

/-- The SEC block (13, 14 R393 to R395). -/
structure Sec where
  slots : List KeySlot := List.replicate 16 {}
  funcs : List KeyFunc := List.replicate 16 {}
  queue : List KeyCmd := []
  regions : List Region := List.replicate 16 {}
  fuses : Fuses := {}
  inForce : Fuses := {}
  fuseOp : Option FuseOp := none
  fuseFail : Bool := false
  dbg : Nat := 0                   -- DBG_STATUS
  dbgFails : Nat := 0
  lockedOut : Bool := false
  nonce : BitVec 256 := 0
  nonceOk : Bool := false
  tapPath : Bool := false
  response : List (BitVec 8) := []
  checking : List (BitVec 8) × List (BitVec 8) := ([], [])   -- response under check, and the challenge block it answers
  hopLock : Bool := false          -- Table SEC-5 step 1
  dbgSel : List (BitVec 32) := []  -- DBG selectors (14 Table REG-26)
  deriving DecidableEq, Repr

/-- What the AON island keeps until OFF (12 Table PWR-1, 14 R382) and its own registers. -/
structure Aon where
  attempts : Nat := 0
  reason : Nat := 0                -- FALLOW_REASON
  detail : BitVec 32 := 0
  training : Option Nat := some 0  -- HBM training and lane-repair values; none: zeros (log 112)
  bootSlot : Bool := false
  bootSel : Nat := 0
  debugOpened : Bool := false
  summary : List Nat := [0, 0, 0, 0, 0, 0]
  firstFatal : ErrEntry := {}
  period : Nat := 1000
  alert : BitVec 8 := 0
  alertMask : BitVec 8 := 0x3F
  xtalFail : Bool := false
  samples : List (Int × Nat) := []   -- telemetry samples, newest first: temperature, power
  smbAddr : BitVec 8 := 0x5C
  perstPending : Bool := false
  within10s : Bool := true
  deriving DecidableEq, Repr

/-- The image that runs (12 R341, 13 Table SEC-3). -/
structure Image where
  slotB : Bool := false
  fw : BitVec 32 := 0
  tree : Nat := 1
  keyIndex : Nat := 0
  rollback : Nat := 0
  digest : Nat := 0
  deriving DecidableEq, Repr

/-- The PWR block, sensors and clocks (12 R329 to R339, 14 Table REG-23). -/
structure Pwr where
  twinAbsent : Bool := true
  twinDisagree : Bool := false
  hbArmed : Bool := false
  westDoze : Bool := false
  eastDoze : Bool := false
  deepGrant : Bool := false
  idleDelay : Nat := 20
  dozeDelay : Nat := 0
  limit : Nat := 400
  sixteenths : Nat := 16
  tempMax : Int := 0
  power : Nat := 0
  hintDuration : BitVec 32 := 0
  throttleCnt : BitVec 32 := 0
  plls : BitVec 9 := 0x1FF
  pme : Bool := false
  trip : Bool := false
  vid : Nat := 0
  supplyFault : Bool := false      -- waits for PERST_N to cycle with every supply in range (15 R415)
  idleHalf : List (Option Nat) := [some 0, some 0]   -- by half: DOZE_DELAY in force when its idle period began; none: busy
  deriving DecidableEq, Repr

/-- FLASH registers and the flash part (14 R383). -/
structure Flash where
  cells : List Host.Cell := []     -- a byte not listed is 0xFF
  addr : Nat := 0
  len : Nat := 256
  busy : Bool := false
  error : Bool := false
  op : Nat := 0
  opAddr : Nat := 0                -- address, length and bytes of the operation that runs
  opLen : Nat := 0
  opData : List (BitVec 8) := []
  data : List (BitVec 8) := List.replicate 256 0
  deriving DecidableEq, Repr

/-- Pins (15 R400) that hold a state of their own; SMB_ALERT_N is computed. -/
structure Pins where
  hbOut : Bool := false
  hbIn : Bool := false              -- TWIN_HB_IN's heartbeat counts as present
  failOut : Bool := false
  failIn : Bool := false
  wakeN : Bool := true
  prochot : Bool := false           -- PROCHOT_N asserted
  fuseVpp : Bool := false           -- FUSE_VPP supplied, as last seen by a fuse operation
  deriving DecidableEq, Repr

/-- The test access port (15 R419). -/
structure Tap where
  ir : Nat := 1
  boundary : BitVec 32 := 0
  drives : Bool := false            -- EXTEST or CLAMP drives the pins
  highz : Bool := false
  deriving DecidableEq, Repr

/-- MSI-X masks and pending bits (03 R72): vectors unmasked and vectors pending, as (function, vector). -/
structure Msix where
  unmasked : List (Nat × Nat) := []
  pending : List (Nat × Nat) := []
  deriving DecidableEq, Repr

/-- Mode of the device (12 R330, R343 to R349, 13 R367). -/
inductive Mode where
  | off            -- VDD_AON absent
  | aonWait        -- VDD_AON present, AON island not ready
  | inReset        -- PERST_N asserted
  | hold           -- 10 ms reset hold after a failed start
  | ready
  | fallow
  | debugOpen
  | deep
  | halted         -- until PERST_N cycles
  | dead           -- powered down by a supply fault or a thermal trip, until its own rule lets it start
  deriving DecidableEq, Repr

/-- What the device has sent outside. -/
inductive OutEv where
  | hostWrite (func addr : Nat) (bytes : List (BitVec 8))
  | msix (func vec : Nat)
  | aer (func code : Nat)      -- 0 Corrected, 5 Uncorrectable Internal Error; 0x10 Poisoned TLP Received
  | regRead (func : Nat) (value : BitVec 64)
  | bar2Data (func : Nat) (bytes : List (BitVec 8)) (poisoned : Bool)
  | config (func : Nat) (value : Option (BitVec 32))      -- none: retry status
  | smb (bytes : List (BitVec 8))
  | smbNak
  | tap (bytes : List (BitVec 8))
  | pps                                                   -- the 10 µs pulse of 1PPS on MGT_GPIO_5
  | flit (port seq vc dest : Nat) (name : String) (args : List Nat) (bytes : List (BitVec 8)) (piece : Nat)
      (wire : List (BitVec 8))                            -- with its 256 bytes (10 Table HRD-1)
  | null (port ack : Nat) (nak : Bool) (vc credit : Nat) (wire : List (BitVec 8))     -- a NULL flit
  | pmeAck
  deriving DecidableEq, Repr

/-- The GLB block's own registers (14 Table REG-3). -/
structure Glb where
  grade14 : Bool := true
  lock : Bool := false
  ctxWaitLimit : Nat := 100
  conflictSeen : BitVec 6 := 0
  conflictPrev : BitVec 6 := 0                     -- CONFLICT_STATUS as last judged
  tickMerged : BitVec 32 := 0
  bar2Xlat : List Nat := List.replicate 16 0       -- in units of 1 GiB
  lowWrites : List (Nat × Nat × BitVec 32) := []   -- low dwords held: function, offset, value
  highReads : List (Nat × Nat × BitVec 32) := []   -- high dwords latched
  deriving DecidableEq, Repr

/-- Device carve-outs and the parameter pages' state (08 R192, 09 R252). A page not listed has the bits 0x8 (DIRTY). -/
structure Regions where
  stashBase : Nat := 0
  stashSize : Nat := 0
  replayBase : Nat := 0
  replaySize : Nat := 0
  ckptBase : Option Nat := none
  paramBase : Nat := 0
  paramSize : Nat := 0
  pages : List (Nat × BitVec 4) := []
  deriving DecidableEq, Repr

end Sys2Proof.Machine
end

