-- ==== Sys2Proof/Machine/HerdTypes.lean ====
section
/-!
DEFINITION. The plain data of the Gynis ports, the twin, the herd, the training path and replay that State holds (09, 10).
-/
namespace Sys2Proof.Machine

/-- A message for the Gynis Link: virtual channel (Table HRD-2), destination herd ID or 0xFF for the far end of the port,
what it says. Table HRD-1 gives no values of MSG and no layout of a payload: a message is kept by name. -/
structure Msg where
  vc : Nat
  dest : Nat := 0xFF
  name : String
  args : List Nat := []
  bytes : List (BitVec 8) := []
  raw : Option (List (BitVec 8)) := none    -- a flit passed on for another device, as received
  deriving DecidableEq, Repr

/-- A numbered flit (10 R272): its SEQ, its message, which of the message's 220-byte pieces it carries. -/
structure Flit where
  seq : Nat
  msg : Msg
  piece : Nat
  deriving DecidableEq, Repr

/-- A Gynis port (10 R269 to R276, 14 Table REG-22). -/
structure Port where
  state : Nat := 1                    -- 0 DOWN, 1 TRAINING, 2 UP, 3 UP at half width
  attempts : Nat := 0
  polarity : BitVec 4 := 0
  farId : Nat := 0xFF
  farPort : Nat := 0
  far : Option LinkInfo := none
  crcCnt : BitVec 32 := 0
  nakCnt : BitVec 32 := 0
  retrainCnt : BitVec 32 := 0
  downCnt : BitVec 32 := 0
  next : Nat := 0                     -- SEQ of the next numbered flit sent
  expected : Nat := 0                 -- SEQ of the next numbered flit accepted
  nakSent : Bool := false             -- this gap has its NAK
  resends : Nat := 0                  -- resends of the oldest kept flit
  kept : List Flit := []              -- sent, not acknowledged, oldest first
  waiting : List (Msg × Nat) := []    -- pieces that wait for a credit
  credits : List Nat := [64, 64, 64]
  chunk : Option (String × List Nat) := none   -- VC_2 chunk begun and not all sent (10 R274)
  share : Bool := false               -- it runs at the minimum share: VC_1 has not been idle since it began
  deriving DecidableEq, Repr

/-- A manifest entry (10 Table HRD-6). -/
structure Entry where
  serial : BitVec 64
  id : Nat
  spare : Bool
  twin : Nat
  replica : Nat
  nbr : List Nat
  rowBase : Nat
  deriving DecidableEq, Repr

/-- A formation in progress (10 Table HRD-8). -/
structure Forming where
  pkt : Nat
  self : Nat
  members : Nat
  part : Nat
  bytes : List (BitVec 8)             -- the manifest as read
  sent : Bool := false                -- OFFERs sent
  deriving DecidableEq, Repr

/-- What a member tells a leader (09 Table TRN-6, STATE). -/
structure MemberState where
  x : Nat
  committed : BitVec 64
  undecided : Bool
  log : Option LogState
  twin : Option (BitVec 64 × BitVec 64 × LogState)   -- newest entry of the commit log it keeps for its twin (R258)
  deriving DecidableEq, Repr

/-- The leader's view of a step being committed (09 R256 to R258). -/
structure Lead where
  step : BitVec 64
  ready : List Nat := []
  acks : List Nat := []
  token : Option (BitVec 64) := none  -- COMMIT has been sent
  deriving DecidableEq, Repr

/-- A collective packet that runs (09 R237 to R244). -/
structure Coll where
  pkt : Nat
  gather : Bool
  k : Nat                             -- its place in decode order
  go : Bool := false                  -- the leader has found every member's fields equal
  nodes : List (Nat × Nat × Nat × List Pair) := []   -- chunk, level, node, values received
  sent : List Nat := []               -- chunks whose node has gone up, or whose root is formed
  shards : List (Nat × Nat × List (BitVec 8)) := []  -- shards that came before GO: rank, chunk, bytes
  done : List Nat := []               -- chunks written; of a gather, rank * chunks per shard + chunk
  deriving DecidableEq, Repr

/-- A herd-context CTX_CLOSE that waits (10 R304). -/
structure HerdClose where
  pkt : Nat
  handle : Nat
  k : Nat
  deriving DecidableEq, Repr

/-- The herd (10, 14 R390). -/
structure Herd where
  formed : Bool := false
  dissolved : Bool := false
  drift : Bool := false
  part : Nat := 0
  self : Nat := 0                     -- herd ID this device answers to
  device : Nat := 0                   -- its herd ID in the manifest
  leader : Nat := 0
  formCount : BitVec 32 := 0
  waitLimit : Nat := 20
  hbTimeout : Nat := 4
  hbInForce : Nat := 4
  ppsEn : Bool := false
  eventIrqEn : Bool := false
  eventVec : Nat := 0
  event : BitVec 7 := 0
  offset : Int := 0
  calm : Nat := 0                     -- consecutive syncs within 100 ns
  lost : BitVec 64 := 0
  recoveryStep : BitVec 64 := 0
  recoveryValid : Bool := false
  barred : Bool := false              -- collectives and updates, from RECOVER on (R301)
  stranded : Bool := false            -- RECOVER carried no step: herd opcodes do not complete (R298, R301)
  failId : Nat := 0
  failOp : Nat := 0
  failValid : Bool := false
  failStep : BitVec 64 := 0
  spareMap : List Nat := List.replicate 64 0xFF
  header : List (BitVec 8) := []
  entries : List Entry := []
  absent : List Nat := []             -- spares that were not heard from
  retired : List Nat := []            -- spare IDs that have taken another ID
  forming : Option Forming := none
  offers : List Offer := []
  lead : Option Lead := none
  states : List MemberState := []
  resolving : Bool := false           -- a new leader gathers STATE
  redCount : Nat := 0                 -- reductions decoded since formation
  gatCount : Nat := 0
  closeCount : Nat := 0
  colls : List Coll := []
  joins : List (Bool × Nat × Nat × List Nat) := []   -- gather, k, member, fields
  closes : List HerdClose := []
  closeMsgs : List CtxNodesMsg := []
  logicalTwin : Option Nat := none    -- herd ID of the logical twin after a takeover
  keepAlive : Bool := true
  deriving DecidableEq, Repr

/-- A COMMIT_STEP in progress on this device (09 R256, R257). -/
structure CommitSt where
  pkt : Option Nat                    -- none once it has ended with HERD_TIMEOUT
  step : BitVec 64
  token : BitVec 64 := 0
  flipped : Bool := false             -- the local commit has been performed
  acked : Bool := false
  deriving DecidableEq, Repr

/-- A checkpoint held in a reserve (09 R261, Table TRN-7): its directory lists page and frame. -/
structure Ckpt where
  slot : Nat
  step : BitVec 64
  complete : Bool
  dir : List (Nat × Nat)
  deriving DecidableEq, Repr

/-- A CHECKPOINT in progress: pages still to send with the copy that holds step c. -/
structure CkptRun where
  pkt : Nat
  step : BitVec 64
  todo : List (Nat × Bool)
  sent : List Nat := []
  deriving DecidableEq, Repr

/-- A RESTORE in progress. -/
structure RestoreRun where
  pkt : Nat
  member : Nat
  step : BitVec 64
  held : Bool := false                -- the holder has answered yes
  pages : List Nat := []              -- pages written
  early : List (Nat × List (BitVec 8)) := []
  deriving DecidableEq, Repr

/-- Steps, the Sluice Update Units, checkpoints (09 R245 to R265, 14 R389). Page state is in Regions. -/
structure Train where
  committed : BitVec 64 := 0
  undoOk : Bool := false
  undecided : Bool := false
  pageSel : Nat := 0
  twinNew : BitVec 64 := BitVec.allOnes 64
  twinOld : BitVec 64 := BitVec.allOnes 64
  busy : List Bool := [false, false, false, false]
  params : List (BitVec 64) := [0, 0, 0, 0]
  last : List (Option (BitVec 64)) := List.replicate 8 none    -- STEP of the last UPDATE_STEP not consumed, by partition
  commit : Option CommitSt := none
  lastLog : Option LogState := none                            -- state of the last LOG sent
  owed : List (BitVec 64 × BitVec 64 × LogState) := []         -- LOGs the twin has not answered
  ckpt : Option CkptRun := none
  mirror : List Ckpt := []                                     -- this device's checkpoints in its twin's reserve
  restore : Option RestoreRun := none
  held : List Ckpt := []                                       -- the twin's checkpoints in this device's reserve
  log : List (BitVec 64 × BitVec 64 × LogState) := []          -- the twin's commit log, newest first: token, step, state
  deriving DecidableEq, Repr

/-- A recorded packet (09 R266). -/
structure Rec where
  hop : Nat
  cls : Nat
  func : Nat
  dw : List (BitVec 32)
  seed : BitVec 64
  reads : List (Nat × List (BitVec 8))
  writes : List (Nat × List (BitVec 8))
  outs : List (BitVec 8)              -- its outputs, as the digest takes them
  digest : BitVec 64
  ctx : Nat
  status : Status
  flags : Flags
  r0 : BitVec 64
  r1 : BitVec 64
  pages : List (Nat × BitVec 4)       -- the parameter pages' state at its dispatch
  engines : Nat                       -- unfenced engines of the partition, and whether a RESIDENT mode used them
  resident : Bool
  again : Bool                        -- a replay executes it again; other packets are replayed from their results
  deriving DecidableEq, Repr

/-- Replay (09 R266 to R268). -/
structure Replay where
  armed : Option (Nat × Nat × Nat) := none   -- Hopper, COUNT, partition
  taken : Nat := 0                           -- packets marked for recording
  truncated : Bool := false
  recs : List Rec := []
  part : Nat := 0
  used : Nat := 0                            -- bytes of the lower half in use
  deriving DecidableEq, Repr

end Sys2Proof.Machine
end

