-- ==== Sys2Proof/Machine/State.lean ====
section
/-!
DEFINITION. State: everything the manual gives the machine, as plain data. The device of State.reset is at READY after a
cold start whose self-tests all passed (log 4).
-/
namespace Sys2Proof.Machine

/-- Why the machine stops with a fault. -/
inductive Fault where
  /-- A command names a Hopper, engine, port ... that the part does not have. Raised by every meaning with such an
  operand. Safe: no such command reaches the part. -/
  | noSuchInstance
  deriving DecidableEq, Repr

/-- Why the machine refuses a command. -/
inductive Refusal where
  /-- No meaning yet. Raised by the arms of exec that are rejected by name; safe. -/
  | notModelled (mnemonic : String)
  deriving DecidableEq, Repr

/-- The machine. -/
structure State where
  pending : List Instr := []
  mode : Mode := .ready
  glb : Glb := {}
  parts : List Part := { mapped := true, mask := 0xFF } :: List.replicate 7 {}
  hops : List Hopper := List.replicate 256 { cls := 2 }
  served : List Nat := [255, 255, 255, 255]    -- Hopper served last in each class (03 R55)
  pkts : List Pkt := []                        -- fetched and not replied, oldest first
  nextId : Nat := 0
  ctxs : List Ctx := []                        -- by rising handle
  engines : List Engine := List.replicate 8 {}
  mem : Mem := {}
  wins : List Window := List.replicate 16 {}
  host : List Host.Cell := []                  -- host memory; a byte not listed is 0
  regions : Regions := {}
  sec : Sec := {}
  err : ErrLog := {}
  aon : Aon := {}
  image : Image := {}
  pwr : Pwr := {}
  flash : Flash := {}
  pins : Pins := {}
  tap : Tap := {}
  msix : Msix := {}
  ports : List Port := List.replicate 4 {}
  herd : Herd := {}
  train : Train := {}
  replay : Replay := {}
  verdictLost : Bool := false                  -- the twin verdict as last judged is LOST (10 Table HRD-4)
  time : BitVec 64 := 0                        -- 100 MHz counter, herd time once a herd has formed (10 R294)
  frac : BitVec 16 := 0
  out : List OutEv := []                       -- newest first
  fallow : List Host.Cell := []                -- the Fallow window (12 R349); a byte not listed is 0
  free : Nat := 0                              -- free values drawn
  deriving DecidableEq, Repr

/-- The machine right after reset: it drives the voltage code of its fuses (15 R409). -/
def State.reset : State := { pwr := { vid := Config.vidFused.val } }

end Sys2Proof.Machine
end

