-- ==== Sys2Proof/Machine/Ops.lean ====
section
/-!
DEFINITION. Named operations over State: instances, byte memories, the error log, MSI-X, free values.
-/
namespace Sys2Proof.Machine

/-! ### Byte memories in canonical form -/

/-- The byte at an address; `d` is what an unlisted address reads as. -/
def readCell (d : BitVec 8) : List Host.Cell → Nat → BitVec 8
  | [], _ => d
  | (b, w) :: t, a => if b = a then w else readCell d t a

/-- A byte written: addresses stay strictly rising, a byte equal to `d` is not listed. -/
def writeCell (d : BitVec 8) : List Host.Cell → Nat → BitVec 8 → List Host.Cell
  | [], a, v => if v = d then [] else [(a, v)]
  | (b, w) :: t, a, v =>
    if b < a then (b, w) :: writeCell d t a v
    else if b = a then (if v = d then t else (a, v) :: t)
    else (if v = d then (b, w) :: t else (a, v) :: (b, w) :: t)

def readCells (d : BitVec 8) (m : List Host.Cell) (a : Nat) : Nat → List (BitVec 8)
  | 0 => []
  | n + 1 => readCell d m a :: readCells d m (a + 1) n

def writeCells (d : BitVec 8) (m : List Host.Cell) (a : Nat) : List (BitVec 8) → List Host.Cell
  | [] => m
  | v :: t => writeCells d (writeCell d m a v) (a + 1) t

/-- The canonical form: addresses strictly rise from `lo` on and no byte equals `d`. -/
def cellsWf (d : BitVec 8) : Nat → List Host.Cell → Bool
  | _, [] => true
  | lo, (a, v) :: t => lo ≤ a && v != d && cellsWf d (a + 1) t

/-- Every byte memory of the machine is in canonical form. -/
def Memory.wf (s : State) : Bool :=
  cellsWf 0 0 s.mem.hbm && cellsWf 0 0 s.host && cellsWf 0xFF 0 s.flash.cells && cellsWf 0 0 s.fallow

/-- What the host has stored in its own memory since the device last read it. -/
def State.hostNews (s : State) (news : List Host.Cell) : State :=
  { s with host := news.foldl (fun m c => writeCell 0 m c.1 c.2) s.host }

/-- 10 R294, 03 Table CMD-5: the time stamped into replies, ticks and log entries. -/
def State.now (s : State) : BitVec 64 := s.time

/-! ### Instances -/

def State.hop (s : State) (h : Nat) : Hopper := s.hops.getD h {}
def State.eng (s : State) (e : Nat) : Engine := s.engines.getD e {}
def State.part (s : State) (p : Nat) : Part := s.parts.getD p {}

def State.modHop (s : State) (h : Nat) (f : Hopper → Hopper) : State := { s with hops := s.hops.modify h f }
def State.modEng (s : State) (e : Nat) (f : Engine → Engine) : State := { s with engines := s.engines.modify e f }
def State.modPart (s : State) (p : Nat) (f : Part → Part) : State := { s with parts := s.parts.modify p f }
def State.modMem (s : State) (f : Mem → Mem) : State := { s with mem := f s.mem }

def State.pkt (s : State) (id : Nat) : Option Pkt := s.pkts.find? fun p => p.id = id
def State.modPkt (s : State) (id : Nat) (f : Pkt → Pkt) : State :=
  { s with pkts := s.pkts.map fun p => if p.id = id then f p else p }

/-- The oldest packet of Hopper h that has no reply. -/
def State.front (s : State) (h : Nat) : Option Pkt := s.pkts.find? fun p => p.hop = h

def State.ctx (s : State) (h : Nat) : Option Ctx := s.ctxs.find? fun c => c.handle = h
def State.modCtx (s : State) (h : Nat) (f : Ctx → Ctx) : State :=
  { s with ctxs := s.ctxs.map fun c => if c.handle = h then f c else c }
def State.dropCtx (s : State) (h : Nat) : State := { s with ctxs := s.ctxs.filter fun c => c.handle != h }

/-- An entry put into the context list, which rises by handle. -/
def insertCtx (c : Ctx) : List Ctx → List Ctx
  | [] => [c]
  | x :: t => if c.handle < x.handle then c :: x :: t else if c.handle = x.handle then c :: t else x :: insertCtx c t

/-- Fields of a handle (04 R77). -/
def handleEngine (h : Nat) : Nat := h / 8192 % 8
def handleSlot (h : Nat) : Nat := h % 8192

/-- Bit i of a mask. -/
def bit (w : Nat) (i : Nat) : Bool := w.testBit i

/-- Bits [hi:lo]. -/
def field (w hi lo : Nat) : Nat := (w >>> lo) % 2 ^ (hi + 1 - lo)

def b2n (b : Bool) : Nat := if b then 1 else 0

/-- Engines of a partition, rising. -/
def State.partEngines (s : State) (p : Nat) : List Nat := (List.range 8).filter fun e => bit (s.part p).mask.toNat e

/-- Its unfenced engines. -/
def State.unfenced (s : State) (p : Nat) : List Nat := (s.partEngines p).filter fun e => !(s.eng e).fenced

/-- The partition that holds an engine. -/
def State.enginePart (s : State) (e : Nat) : Option Nat := (List.range 8).find? fun p => bit (s.part p).mask.toNat e

/-- The partition mapped to a function (11 R305). -/
def State.funcPart (s : State) (f : Nat) : Option Nat :=
  (List.range 8).find? fun p => (s.part p).mapped && (s.part p).func = f

/-- A DEEP grant ends (12 R334). -/
def State.withdraw (s : State) : State := { s with pwr := { s.pwr with deepGrant := false } }

/-- A partition's sleep hint ends at its next dispatch (12 R332). -/
def State.endHint (s : State) (p : Nat) : State := s.modPart p fun q => { q with hint := none }

/-- The herd-time 1PPS holds MGT_GPIO_5 (11 R317). -/
def State.ppsHolds (s : State) : Bool := s.herd.ppsEn && s.herd.formed

/-- A fresh index of the free values. -/
def State.draw (s : State) : State := { s with free := s.free + 1 }

def State.emit (s : State) (o : OutEv) : State := { s with out := o :: s.out }

/-! ### MSI-X (03 R72 and the PCIe pending-bit rules) -/

/-- A message, or its pending bit while the vector is masked. -/
def State.msixSend (s : State) (f v : Nat) : State :=
  if s.msix.unmasked.contains (f, v) then s.emit (.msix f v)
  else if s.msix.pending.contains (f, v) then s
  else { s with msix := { s.msix with pending := s.msix.pending ++ [(f, v)] } }

/-! ### ERRLOG (13 R371 to R373) -/

/-- Class of a cause (Table SEC-9); PLL_LOSS is given its class by its caller. -/
def causeClass (cause : Nat) : Nat :=
  match cause with
  | 0x10 | 0x11 | 0x15 => 0
  | 0x13 | 0x14 | 0x16 => 1
  | 0x20 | 0x21 | 0x22 | 0x24 => 3
  | 0x12 => 4
  | 0x17 | 0x29 | 0x2A | 0x32 => 5
  | _ => 2

/-- AER mapping (Table SEC-8): CORRECTED and FATAL. -/
def State.aerOf (s : State) (cls : Nat) : State :=
  if cls = 0 ∨ cls = 5 then s.emit (.aer 0 cls) else s

def addAt (l : List Nat) (i top : Nat) : List Nat := l.modify i fun n => min (n + 1) top

/-- The ring with one more error event (R371): it holds 256 entries, a new one overwrites the oldest and counts in ERR_LOST;
a repeated CORRECTED entry counts in the newest. -/
def ErrLog.add (l : ErrLog) (e : ErrEntry) : ErrLog :=
  let last := (l.head + 255) % 256
  let n := l.entries.getD last {}
  if e.cls = 0 ∧ n.cause = e.cause ∧ n.unit = e.unit ∧ n.a = e.a then
    { l with entries := l.entries.set last { n with count := min (n.count + 1) 255, time := e.time } }
  else
    { l with
      entries := l.entries.set l.head e
      head := (l.head + 1) % 256
      lost := if (l.entries.getD l.head {}).cause ≠ 0 then l.lost + 1 else l.lost }

/-- The AON summary with one more error event: ERR_SUMMARY_c and FIRST_FATAL (R372). -/
def Aon.add (a : Aon) (e : ErrEntry) : Aon :=
  { a with
    summary := addAt a.summary e.cls 65535
    firstFatal := if e.cls = 5 ∧ a.firstFatal.cause = 0 then e else a.firstFatal }

/-- What an error event of class c sends: the AER message and, where ERR_MASK has the class, the MSI-X vector. -/
def State.errSend (s : State) (c : Nat) : State :=
  if bit s.err.mask c then (s.aerOf c).msixSend 0 s.err.vec else s.aerOf c

/-- An error event while the ERRLOG block is not powered: the AON summary alone counts it (log 92). -/
def State.countOnly (s : State) (c : Nat) : State := { s with aon := { s.aon with summary := addAt s.aon.summary c 65535 } }

/-- One error event: the ring, the AON summary, and what it sends. -/
def State.logEntry (s : State) (e : ErrEntry) : State :=
  let e := { e with time := s.now }
  { s with err := s.err.add e, aon := s.aon.add e }.errSend e.cls

/-- An entry of a cause whose class Table SEC-9 fixes. -/
def State.log (s : State) (cause unit : Nat) (part : Option Nat) (a b : Nat) : State :=
  s.logEntry { cause := cause, cls := causeClass cause, part := part, unit := unit,
               a := BitVec.ofNat 64 a, b := BitVec.ofNat 64 b }

/-- The Hopper whose registers hold an offset (14 Table REG-9), 0xFF elsewhere. -/
def hopperOf (off : Nat) : Nat := if 0x20000 ≤ off ∧ off < 0x24000 then (off - 0x20000) / 0x40 else 0xFF

/-- REG_IGNORED (14 R375 to R379). DESIGN CHOICE, log 106: UNIT 0x40, no partition, and the BAR0 offset in WORD_A. -/
def State.regIgnored (s : State) (off value : Nat) : State :=
  s.logEntry { cause := 0x03, cls := 2, hopper := hopperOf off, a := BitVec.ofNat 64 off, b := BitVec.ofNat 64 value }

/-- ACCESS_DROPPED (13 R360): the partition concerned is the one mapped to the function. -/
def State.accessDropped (s : State) (addr func : Nat) : State := s.log 0x04 0x41 (s.funcPart func) addr func

/-! ### Occupancy of the Row Context Store (14 R388) -/

def State.occupancy (s : State) (e : Nat) : Nat := (s.ctxs.filter fun c => handleEngine c.handle = e).length

/-- Peak occupancy follows the slots in use. -/
def State.notePeak (s : State) (e : Nat) : State :=
  s.modEng e fun g => { g with peak := max g.peak (s.occupancy e) }

end Sys2Proof.Machine
end

