-- ==== Sys2Proof/Machine/Conflict.lean ====
section
/-!
DEFINITION. The conflicts of 11 Table EPO-3, and the outcome of a command's meaning.
-/
namespace Sys2Proof.Machine

/-- A page move runs in a partition that has an enabled window holding persistent lines. -/
def State.pagingConflict (s : State) : Bool :=
  s.engines.any fun g => match g.move with
    | some (.out id _) | some (.into id _) =>
      g.pages.any fun r => r.id = id && (List.range 16).any fun n =>
        let w := s.wins.getD n {}
        w.enable && w.part = r.part && s.mem.lines.any fun l => l.win = some n
    | none => false

/-- A VC_2 chunk runs at the minimum share (10 R274). -/
def State.ckptConflict (s : State) : Bool := s.ports.any fun k => k.chunk.isSome && k.share

/-- CONFLICT_STATUS (11 R316). -/
def State.conflicts (s : State) : BitVec 6 :=
  let b (c : Bool) (i : Nat) : Nat := if c then 2 ^ i else 0
  BitVec.ofNat 6 (b (s.mode = .debugOpen) 0 + b s.ckptConflict 1 + b s.ppsHolds 2 + b s.pwr.hbArmed 3 +
    b s.replay.armed.isSome 4 + b s.pagingConflict 5)

/-- CONFLICT_SEEN takes every bit that rises. -/
def State.noteConflicts (s : State) : State :=
  let c := s.conflicts
  { s with glb := { s.glb with conflictSeen := s.glb.conflictSeen ||| (c &&& ~~~ s.glb.conflictPrev), conflictPrev := c } }

/-- The idle periods of the halves: one begins as the last engine of the half has no segment, under the DOZE_DELAY of that
moment (14 R392). -/
def State.noteIdle (s : State) : State :=
  let busy (h : Nat) : Bool := (List.range 4).any fun i => let g := s.eng (4 * h + i); g.run.isSome || g.susp.isSome
  let next (h : Nat) (d : Option Nat) : Option Nat := if busy h then none else some (d.getD s.pwr.dozeDelay)
  { s with pwr := { s.pwr with idleHalf := s.pwr.idleHalf.mapIdx next } }

/-- What every command that can raise a conflict or end an idle period leaves noted. -/
def State.noteAll (s : State) : State := s.noteIdle.noteConflicts

/-- The outcome of a command that names instances: its effect where they all exist. -/
def bounded (ok : Bool) (s : State) : Host.Outcome State Fault Refusal :=
  if ok then .next s else .fault .noSuchInstance

/-- The same for a command that can raise a conflict or end an idle period. -/
def noted (ok : Bool) (s : State) : Host.Outcome State Fault Refusal := bounded ok s.noteAll

end Sys2Proof.Machine
end

