-- ==== Sys2Proof/Machine/Crypto.lean ====
section
/-!
DEFINITION. AES-256-XTS on one 32-byte sector (13 R356: IEEE Std 1619-2018 and NIST SP 800-38E, by reference to which the
manual defines the cipher).
-/
namespace Sys2Proof.Machine

/-- Multiplication by x in the AES field. -/
def xtime (b : Nat) : Nat := if b < 128 then 2 * b else (2 * b) % 256 ^^^ 0x1B

/-- Product in the AES field, over eight bits of the second factor. -/
def gmulAux : Nat → Nat → Nat → Nat
  | 0, _, _ => 0
  | n + 1, a, b => (if b % 2 = 1 then a else 0) ^^^ gmulAux n (xtime a) (b / 2)

def gmul (a b : Nat) : Nat := gmulAux 8 a b

def rotl8 (b k : Nat) : Nat := ((b <<< k) ||| (b >>> (8 - k))) % 256

/-- Inverse in the AES field: a^254. -/
def ginv (a : Nat) : Nat :=
  let a2 := gmul a a
  let a4 := gmul a2 a2
  let a8 := gmul a4 a4
  let a16 := gmul a8 a8
  let a32 := gmul a16 a16
  let a64 := gmul a32 a32
  let a128 := gmul a64 a64
  gmul a128 (gmul a64 (gmul a32 (gmul a16 (gmul a8 (gmul a4 a2)))))

def sbox (a : Nat) : Nat :=
  let b := ginv a
  b ^^^ rotl8 b 1 ^^^ rotl8 b 2 ^^^ rotl8 b 3 ^^^ rotl8 b 4 ^^^ 0x63

def invSbox (a : Nat) : Nat := ginv (rotl8 a 1 ^^^ rotl8 a 3 ^^^ rotl8 a 6 ^^^ 0x05)

def xorL (a b : List Nat) : List Nat := (a.zip b).map fun (x, y) => x ^^^ y

/-- Words of the AES-256 key schedule, newest first: `i` is the index of the next word. -/
def expandKey : Nat → Nat → Nat → List (List Nat) → List (List Nat)
  | 0, _, _, ws => ws
  | n + 1, i, rcon, ws =>
    let prev := ws.getD 0 []
    let old := ws.getD 7 []
    let (t, rc) :=
      if i % 8 = 0 then
        match prev.map sbox with
        | [a, b, c, d] => ([b ^^^ rcon, c, d, a], xtime rcon)
        | l => (l, rcon)
      else if i % 8 = 4 then (prev.map sbox, rcon)
      else (prev, rcon)
    expandKey n (i + 1) rc (xorL old t :: ws)

def chunk4 : List Nat → List (List Nat)
  | a :: b :: c :: d :: t => [a, b, c, d] :: chunk4 t
  | _ => []

/-- The 15 round keys of a 32-byte key, 16 bytes each. -/
def roundKeys (key : List Nat) : List (List Nat) :=
  let ws := (expandKey 52 8 1 (chunk4 key).reverse).reverse
  (List.range 15).map fun r => ((ws.drop (4 * r)).take 4).flatten

def shiftRows (s : List Nat) : List Nat := (List.range 16).map fun i => s.getD ((i + 4 * (i % 4)) % 16) 0
def invShiftRows (s : List Nat) : List Nat := (List.range 16).map fun i => s.getD ((i + 16 - 4 * (i % 4)) % 16) 0

def mixWith (m : List Nat) (s : List Nat) : List Nat :=
  (List.range 16).map fun i =>
    let c := 4 * (i / 4)
    let r := i % 4
    (List.range 4).foldl (fun acc j => acc ^^^ gmul (s.getD (c + j) 0) (m.getD ((j + 4 - r) % 4) 0)) 0

def aesEncrypt (rks : List (List Nat)) (b : List Nat) : List Nat :=
  let s := xorL b (rks.getD 0 [])
  let s := (List.range 13).foldl (fun s r =>
    xorL (mixWith [2, 3, 1, 1] (shiftRows (s.map sbox))) (rks.getD (r + 1) [])) s
  xorL (shiftRows (s.map sbox)) (rks.getD 14 [])

def aesDecrypt (rks : List (List Nat)) (b : List Nat) : List Nat :=
  let s := xorL b (rks.getD 14 [])
  let s := (List.range 13).foldl (fun s r =>
    mixWith [14, 11, 13, 9] (xorL ((invShiftRows s).map invSbox) (rks.getD (13 - r) []))) s
  xorL ((invShiftRows s).map invSbox) (rks.getD 0 [])

def natBytes : Nat → Nat → List Nat
  | 0, _ => []
  | n + 1, v => v % 256 :: natBytes n (v / 256)

def bytesNat : List Nat → Nat
  | [] => 0
  | b :: t => b + 256 * bytesNat t

/-- The tweak of the next block: multiplication by x in GF(2^128). -/
def nextTweak (t : List Nat) : List Nat :=
  let v := 2 * bytesNat t
  natBytes 16 (if v < 2 ^ 128 then v else (v - 2 ^ 128) ^^^ 0x87)

/-- One sector under AES-256-XTS: Key1 the data key, Key2 the tweak key, the tweak the sector number (R356). -/
def xtsSector (enc : Bool) (key1 key2 : BitVec 256) (sector : Nat) (d : Sector) : Sector :=
  let k1 := roundKeys (natBytes 32 key1.toNat)
  let t0 := aesEncrypt (roundKeys (natBytes 32 key2.toNat)) (natBytes 16 sector)
  let t1 := nextTweak t0
  let bs := natBytes 32 d.toNat
  let f (t b : List Nat) : List Nat := xorL ((if enc then aesEncrypt k1 else aesDecrypt k1) (xorL b t)) t
  BitVec.ofNat 256 (bytesNat (f t0 (bs.take 16) ++ f t1 (bs.drop 16)))

end Sys2Proof.Machine
end

