-- ==== Sys2Proof/Machine/Cache.lean ====
section
/-!
DEFINITION. Address map, HBM, L2 and L1 (08_scratchpad_cache_and_hbm). An access to one sector is one step: it hits, or it
reads HBM and fills L2. PREFETCH leaves reads in flight; a demand read that may have overlapped another's fill is a duplicate
or a hit as a free value says (R216, log 107).
-/
namespace Sys2Proof.Machine

/-! ### Addresses (R188 to R195) -/

def hbmSize : Nat := 96 * 2 ^ 30
def stackSize : Nat := 24 * 2 ^ 30
def fallowBase : Nat := 0xF000000000
def fallowSize : Nat := 0x800000

/-- Owner of the granule of an HBM address (R189). -/
def State.granuleOwner (s : State) (a : Nat) : Nat := s.mem.owner.getD (a / 2 ^ 30) 0xF

/-- Stack location of an HBM address: linear, or rotated where the owner is SPREAD (R190, R191). -/
def State.locOf (s : State) (a : Nat) : Nat :=
  let ow := s.granuleOwner a
  if ow < 8 && (s.part ow).spread then
    let k := a / stackSize
    let o := a % stackSize
    (k + o / 8192) % 4 * stackSize + o
  else a

/-- State bits of a parameter page (09 R252): [0] GEN, [1] PENDING, [2] LAST, [3] DIRTY. -/
def State.pageState (s : State) (p : Nat) : BitVec 4 :=
  ((s.regions.pages.find? fun x => x.1 = p).map (·.2)).getD 0x8

/-- A list of page states without the default ones, rising by page. -/
def setPageIn (p : Nat) (v : BitVec 4) : List (Nat × BitVec 4) → List (Nat × BitVec 4)
  | [] => if v = 0x8 then [] else [(p, v)]
  | (q, w) :: t =>
    if q < p then (q, w) :: setPageIn p v t
    else if q = p then (if v = 0x8 then t else (p, v) :: t)
    else (if v = 0x8 then (q, w) :: t else (p, v) :: (q, w) :: t)

def State.setPage (s : State) (p : Nat) (v : BitVec 4) : State :=
  { s with regions := { s.regions with pages := setPageIn p v s.regions.pages } }

/-- An address lies in the addressable half of the parameter region (R193). -/
def State.inParams (s : State) (a : Nat) : Bool :=
  s.regions.paramSize != 0 && s.regions.paramBase ≤ a && a < s.regions.paramBase + s.regions.paramSize

/-- The backing of one copy of a parameter address (09 R252). -/
def State.paramCopy (s : State) (gen : Bool) (a : Nat) : Nat := if gen then a + s.regions.paramSize else a

/-- The address that holds the data of an operand address: the current copy in the parameter region (09 R253). -/
def State.backing (s : State) (a : Nat) : Nat :=
  if s.inParams a then
    s.paramCopy ((s.pageState ((a - s.regions.paramBase) / 65536)).getLsbD 0) a
  else a

/-- Packets of this partition may read the parameter region: the herd partition, any while no herd is formed (Table MEM-2). -/
def State.paramReader (s : State) (p : Nat) : Bool := !s.herd.formed || s.herd.part = p

/-- An address is in the partition's ranges (R193); in FALLOW only the Fallow window is (12 R349). -/
def State.reach (s : State) (p : Nat) (write : Bool) (a : Nat) : Bool :=
  if s.mode = .fallow then fallowBase ≤ a && a < fallowBase + fallowSize
  else if a ≥ hbmSize then false
  else if s.granuleOwner a = p then
    let q := s.part p
    !(q.ovSize != 0 && q.ovBase ≤ a && a < q.ovBase + q.ovSize)
  else !write && s.inParams a && s.paramReader p

/-- Lowest address of [a, a + n) outside the partition's ranges. -/
def State.firstBad (s : State) (p : Nat) (write : Bool) (a n : Nat) : Option Nat :=
  let q := s.part p
  let cuts := [a, q.ovBase, q.ovBase + q.ovSize, s.regions.paramBase, s.regions.paramBase + s.regions.paramSize,
      hbmSize, fallowBase, fallowBase + fallowSize] ++
    ((List.range (min (n / 2 ^ 30 + 2) 98)).map fun i => (a / 2 ^ 30 + 1 + i) * 2 ^ 30)
  let bad := cuts.filter fun c => a ≤ c && c < a + n && !s.reach p write c
  bad.foldl (fun acc c => match acc with | some x => some (min x c) | none => some c) none

/-- A partition holds the key of a region (13 R354). -/
def State.holdsKey (s : State) (p : Nat) (r : Region) : Bool :=
  let k := s.sec.slots.getD r.slot {}
  k.state = 2 && k.owner = p

/-- Lowest address of [a, a + n) in an enabled region whose key the partition does not hold (13 R358). -/
def State.firstDenied (s : State) (p : Option Nat) (a n : Nat) : Option Nat :=
  let bad := s.sec.regions.filterMap fun r =>
    let lo := max a r.base
    if r.enable && lo < min (a + n) (r.base + r.size) && !(match p with | some p => s.holdsKey p r | none => false)
    then some lo else none
  bad.foldl (fun acc c => match acc with | some x => some (min x c) | none => some c) none

/-! ### DRAM (R205, R209, R226; 13 R356) -/

/-- The key of the enabled region that holds a device address. -/
def State.regionKey (s : State) (a : Nat) : Option KeySlot :=
  (s.sec.regions.find? fun r => r.enable && r.base ≤ a && a < r.base + r.size).map fun r => s.sec.slots.getD r.slot {}

/-- Encryption on the way to HBM, decryption on the way back; `sa` is the device address / 32. -/
def State.xts (s : State) (enc : Bool) (sa : Nat) (d : Sector) : Sector :=
  match s.regionKey (sa * 32) with
  | some k => xtsSector enc k.key1 k.key2 sa d
  | none => d

/-- A sector from its bytes, and back. -/
def sectorOf (bs : List (BitVec 8)) : Sector := BitVec.ofNat 256 (ofBytes bs)
def sectorBytes (d : Sector) : List (BitVec 8) := leBytes 32 d.toNat

/-- What DRAM holds for a sector location, a write on its way first: data as stored, poison. -/
def State.dramRaw (s : State) (loc : Nat) : Sector × Bool :=
  match (s.mem.wq.filter fun w => w.sec = loc).getLast? with
  | some w => (w.data, w.poison)
  | none => (sectorOf (readCells 0 s.mem.hbm (loc * 32) 32), s.mem.poison.contains loc)

/-- A sector as L2 reads it from HBM. `sa` is its device address / 32. -/
def State.dramRead (s : State) (sa : Nat) : Sector × Bool :=
  let (d, p) := s.dramRaw (s.locOf (sa * 32) / 32)
  (s.xts false sa d, p)

/-- Sorted list of poisoned sectors. -/
def setPoison (loc : Nat) (p : Bool) : List Nat → List Nat
  | [] => if p then [loc] else []
  | x :: t => if x < loc then x :: setPoison loc p t
              else if x = loc then (if p then loc :: t else t)
              else (if p then loc :: x :: t else x :: t)

/-- A stack leaves self-refresh at an access (12 R333). -/
def Mem.wake (m : Mem) (loc : Nat) : Mem := { m with selfRefresh := m.selfRefresh.set (loc * 32 / stackSize) false }
def State.wakeStack (s : State) (loc : Nat) : State := s.modMem fun m => m.wake loc

/-- A sector leaves L2 (or a Sluice unit) for HBM. -/
def State.toDram (s : State) (loc sa : Nat) (d : Sector) (poison : Bool) : State :=
  s.modMem fun m => { m.wake loc with wq := m.wq ++ [{ sec := loc, data := s.xts true sa d, poison := poison }] }

/-- A stack controller writes a sector into DRAM. -/
def Mem.store (m : Mem) (w : WriteBack) : Mem :=
  { m.wake w.sec with hbm := writeCells 0 m.hbm (w.sec * 32) (sectorBytes w.data), poison := setPoison w.sec w.poison m.poison }

/-- The sectors on their way that `f` selects reach DRAM, oldest first. -/
def State.drainWq (s : State) (f : WriteBack → Bool) : State :=
  s.modMem fun m => (m.wq.filter f).foldl Mem.store { m with wq := m.wq.filter fun w => !f w }

/-! ### L2 sets, windows, victims (R204, R208, R210 to R214) -/

/-- Set of a line, with its half (R204). -/
def l2Set (line : Nat) : Nat × Nat :=
  let loc := line * 128
  let k := loc / stackSize
  let o := loc % stackSize
  let x := (field o 19 7) ^^^ (field o 32 20)
  (k / 2, if k % 2 = 1 then x ^^^ 4096 else x)

/-- The window that governs an address of a partition (R213). -/
def State.windowOf (s : State) (p a : Nat) : Option Nat :=
  (List.range 16).find? fun n =>
    let w := s.wins.getD n {}
    w.enable && w.part = p && w.base ≤ a && a < w.base + w.size

/-- A fill under this hint is persistent for its window (R211). -/
def Window.persists (w : Window) (h : Hint) : Bool :=
  w.quota != 0 && (w.cls = 0 || (w.cls = 1 && h != .evictFirst))

def State.modWin (s : State) (n : Nat) (f : Window → Window) : State := { s with wins := s.wins.modify n f }

/-- L1 copies of a line go, with what is in flight to them (R203, R218): eviction of the line and walks. -/
def State.dropL1 (s : State) (line : Nat) (pick : Nat → Bool) : State :=
  { s with engines := s.engines.mapIdx fun e g =>
      if pick e then
        { g with l1 := g.l1.filter fun x => x.line != line, fills := g.fills.filter fun x => x.line != line,
                 binv := g.binv.filter fun x => x.1 != line, answers := g.answers.filter fun x => x.1 != line,
                 notices := g.notices.filter fun x => x.1 != line }
      else g }

/-- The dirty sectors of a line go towards DRAM; the line stays, clean. -/
def State.cleanLine (s : State) (l : L2Line) : State :=
  let s := (List.range 4).foldl (fun s i =>
    let x := l.secs.getD i {}
    if x.valid && x.dirty then s.toDram (l.line * 4 + i) (l.addr * 4 + i) x.data x.poison else s) s
  s.modMem fun m => { m with lines := m.lines.map fun y =>
    if y.line = l.line then { y with secs := y.secs.map fun x => { x with dirty := false } } else y }

/-- A line leaves L2 (R205, R218): write-back, L1 copies gone. -/
def State.evictLine (s : State) (l : L2Line) : State :=
  let s := s.cleanLine l
  let s := s.dropL1 l.line fun e => l.pres.getLsbD e
  s.modMem fun m => { m with lines := m.lines.filter fun x => x.line != l.line }

/-- Victim of a fill (Table MEM-6), the window the new line is persistent for, and the window whose fill is made non-persistent. -/
def State.victim (s : State) (line : Nat) (win : Option Nat) : Option L2Line × Option Nat × Option Nat :=
  let set := s.mem.lines.filter fun x => l2Set x.line = l2Set line && x.line != line
  let plain : Option L2Line := if set.length < 16 then none else set.find? fun x => x.win.isNone
  match win with
  | none => (plain, none, none)
  | some w =>
    let mine := set.filter fun x => x.win = some w
    let total := (set.filter fun x => x.win.isSome).length
    if mine.length ≥ (s.wins.getD w {}).quota then
      let old := mine.foldl (fun acc x => match acc with
        | some y => if x.born < y.born then some x else some y
        | none => some x) (none : Option L2Line)
      (old, some w, none)
    else if total < 12 then (plain, some w, none)
    else (plain, none, some w)

/-- Place of a line in the order of recency. -/
def touch (line : Nat) (ls : List L2Line) : List L2Line :=
  (ls.filter fun x => x.line != line) ++ ls.filter fun x => x.line = line

/-- Who makes an access: partition, engine, hint, packet; a Sluice access does not allocate (R208); overflow paging fills
commons ways only (R199). A read that may have been issued while another requester's read was in flight says since which fill
(R216); a BAR2 read names its function's partition. -/
structure Src where
  part : Option Nat := none
  eng : Option Nat := none
  hint : Hint := .normal
  pkt : Option Nat := none
  sluice : Bool := false
  commons : Bool := false
  since : Option Nat := none
  bar : Option Nat := none
  deriving DecidableEq, Repr

/-- The window a fill of an address would be persistent for (R211, R213); none for overflow paging (R199). -/
def State.fillWindow (s : State) (src : Src) (a : Nat) : Option Nat :=
  let owner := s.granuleOwner a
  if src.commons || owner ≥ 8 then none
  else (s.windowOf owner a).filter fun n => (s.wins.getD n {}).persists src.hint

/-- A line without valid sectors is allocated (R208, R211, R212). -/
def State.allocLine (s : State) (src : Src) (line addr : Nat) : State :=
  let owner := s.granuleOwner (addr * 128)
  let (v, win, short) := s.victim line (s.fillWindow src (addr * 128))
  let s := match v with | some l => s.evictLine l | none => s
  let s := match short with | some w => s.modWin w fun x => { x with short := x.short + 1 } | none => s
  let l : L2Line := { line := line, addr := addr, owner := owner, win := win, born := s.mem.born,
                      secs := List.replicate 4 ({} : L2Sec) }
  let front : Bool := src.hint == .evictFirst && win.isNone
  s.modMem fun m => { m with born := m.born + 1, lines := (if front then l :: m.lines else m.lines ++ [l]) }

def State.findLine (s : State) (line : Nat) : Option L2Line := s.mem.lines.find? fun x => x.line = line

def State.modLine (s : State) (line : Nat) (f : L2Line → L2Line) : State :=
  s.modMem fun m => { m with lines := m.lines.map fun x => if x.line = line then f x else x }

/-- A hit: the line is most recent (R208). -/
def State.hitLine (s : State) (line : Nat) : State := s.modMem fun m => { m with lines := touch line m.lines }

/-- The line that a sector is filled into: allocated, or, where it is there, made most recent but for EVICT_FIRST (R208). -/
def State.enterLine (s : State) (src : Src) (line addr : Nat) : State :=
  match s.findLine line with
  | some _ => if src.hint == .evictFirst then s else s.hitLine line
  | none => s.allocLine src line addr

/-! ### Sector accesses -/

/-- One access in the pressure monitor's window; the 65,536th closes the window, which is judged by the limit in force
(R215). -/
def Part.count (q : Part) (miss : Bool) : Part :=
  let m := q.misses + b2n miss
  if q.accesses + 1 < 65536 then { q with accesses := q.accesses + 1, misses := m }
  else { q with accesses := 0, misses := 0, closed := q.closed ++ [decide (m > q.limit * 256)] }


/-- The pressure monitor counts an access filled, or that would be filled, as non-persistent (R215). -/
def State.monitor (s : State) (src : Src) (sa : Nat) (miss : Bool) : State :=
  match src.part with
  | none => s
  | some p =>
    let pers := match s.fillWindow src (sa * 32) with
      | some n => (s.victim (s.locOf (sa * 32) / 128) (some n)).2.1.isSome
      | none => false
    if pers || (s.part p).limit = 0 then s else s.modPart p fun q => q.count miss

/-- An address lies in a read-only range latched for the partition (R202). -/
def Part.latched (q : Part) (a : Nat) : Bool := q.roLatched.any fun (b, z) => b ≤ a && a < b + z

/-- Requester of a read: an engine, a read of no packet, or a unit that works for a packet. -/
def Src.who (src : Src) : Nat := match src.eng with | some e => e | none => if src.pkt.isSome then 9 else 8

/-- The sector was filled by another requester's read that this one may have overlapped (R216). -/
def Src.overlaps (src : Src) (x : L2Sec) : Bool :=
  match src.since with
  | some n => x.filled && n ≤ x.no && x.who != src.who
  | none => false

/-- A read takes its sector of a line that is there, with its data (R216). -/
def State.fillSector (s : State) (who loc : Nat) (d : Sector) (poison : Bool) : State :=
  let no := s.mem.fills
  (s.modLine (loc / 4) fun l => { l with secs := l.secs.modify (loc % 4) fun x =>
    { x with valid := true, dirty := false, filled := true, no := no, who := who, poison := poison, data := d } }).modMem
      fun m => { m with fills := m.fills + 1 }

/-- What a returning read writes into its sector (R216): a sector not filled takes it; a sector already there takes it where
no sector of its line is dirty and its WRITTEN bit is clear. -/
def State.returnTo (s : State) (src : Src) (loc sa : Nat) : State :=
  let (d, poison) := s.dramRead sa
  let fill (s : State) : State := (s.enterLine src (loc / 4) (sa / 4)).fillSector src.who loc d poison
  match s.findLine (loc / 4) with
  | none => fill s
  | some l =>
    let x := l.secs.getD (loc % 4) {}
    if !x.valid then fill s
    else if x.written || l.secs.any fun y => y.valid && y.dirty then s
    else s.fillSector src.who loc d poison

/-- A read that returns for a sector that a read has filled is a duplicate (R216). -/
def State.countDup (s : State) (src : Src) : State :=
  let s := match (if src.bar.isSome then src.bar else src.part) with
    | some p => s.modPart p fun q => { q with dupFill := q.dupFill + 1 }
    | none => s
  match src.pkt with
  | some id => s.modPkt id fun p => { p with flags := p.flags.or { dupFill := true } }
  | none => s

/-- The sector at a location, as L2 holds it. -/
def State.l2Sec (s : State) (loc : Nat) : L2Sec :=
  match s.findLine (loc / 4) with | some l => l.secs.getD (loc % 4) {} | none => {}

/-- One sector read through L2: data, poison. A miss fills it (R205); a Sluice miss does not (R208). A read that another
requester's fill overlapped is a hit or, by a free value, a duplicate (R216). -/
def State.l2Read (s : State) (src : Src) (sa : Nat) : Sector × Bool × State :=
  let loc := s.locOf (sa * 32) / 32
  let x := s.l2Sec loc
  if x.valid then
    if src.overlaps x && (Config.openByte s.free 70000).getLsbD 0 then
      let s := ((((s.monitor src sa true).wakeStack loc).countDup src).draw).returnTo src loc sa
      ((s.l2Sec loc).data, (s.l2Sec loc).poison, s)
    else (x.data, x.poison, (s.monitor src sa false).hitLine (loc / 4))
  else
    let s := (s.monitor src sa true).wakeStack loc
    let (d, p) := s.dramRead sa
    if src.sluice then (d, p, s)
    else (d, p, (s.enterLine src (loc / 4) (sa / 4)).fillSector src.who loc d p)

/-- Messages about a line between L2 and the L1 of engine e that precede its request have arrived (R219). -/
def State.settleLine (s : State) (e line : Nat) : State :=
  s.modEng e fun g =>
    let gone := g.binv.any fun x => x.1 = line
    { g with l1 := g.l1.filter (fun x => !gone || x.line != line), fills := g.fills.filter (fun x => !gone || x.line != line),
             binv := g.binv.filter (fun x => x.1 != line), answers := g.answers.filter (fun x => x.1 != line),
             notices := g.notices.filter (fun x => x.1 != line) }

/-- One sector read by an engine: its L1 serves latched ranges and is filled for them (R202, R203, R217). `a` is the operand
address, `sa` the device address / 32 of its data. -/
def State.readSector (s : State) (src : Src) (a sa : Nat) : Sector × Bool × State :=
  match src.eng, src.part with
  | some e, some p =>
    if (s.part p).latched a then
      let loc := s.locOf (sa * 32) / 32
      let line := loc / 4
      let i := loc % 4
      let held (ls : List L1Line) : Option Sector :=
        (ls.find? fun x => x.line = line && (x.secs.getD i none).isSome).bind fun x => x.secs.getD i none
      match held (s.eng e).l1 with
      | some d =>
        (d, false, s.modEng e fun g => { g with l1 := (g.l1.filter fun x => x.line != line) ++ g.l1.filter fun x => x.line = line })
      | none =>
        match held (s.eng e).fills with
        | some d => (d, false, s)
        | none =>
          let (d, poison, s) := s.l2Read src sa
          if poison then (d, true, s)
          else
            let s := s.settleLine e line
            let ep := ((s.findLine line).map (·.epoch)).getD 0 + 1
            let s := s.modLine line fun l => { l with epoch := ep, pres := l.pres ||| BitVec.ofNat 8 (2 ^ e) }
            (d, false, s.modEng e fun g => { g with fills := g.fills ++
              [{ line := line, epoch := ep, secs := (List.replicate 4 none).set i (some d) }] })
    else s.l2Read src sa
  | _, _ => s.l2Read src sa

/-- Bytes `off` on of a sector replaced. -/
def patch (d : Sector) (off : Nat) (bs : List (BitVec 8)) : Sector :=
  sectorOf ((sectorBytes d).take off ++ bs ++ (sectorBytes d).drop (off + bs.length))

/-- Bytes written into one sector (R205, R209, R218): false when a partial write meets poison, which L2 then holds. A write of no packet, the host's
through BAR2 among them, has every answer before the next command (03 R53). -/
def State.writeSector (s : State) (src : Src) (sa off : Nat) (bs : List (BitVec 8)) : Bool × State :=
  let loc := s.locOf (sa * 32) / 32
  let line := loc / 4
  let i := loc % 4
  let whole := bs.length = 32
  let x := s.l2Sec loc
  let put (s : State) (d : Sector) : State :=
    let pres := ((s.findLine line).map (·.pres)).getD 0
    let s := s.modLine line fun l => { l with secs := l.secs.modify i fun x =>
      { x with valid := true, dirty := true, written := true, poison := false, data := d } }
    let s := match src.eng with
      | some e => s.modEng e fun g => { g with l1 := g.l1.filter fun x => x.line != line,
                                               fills := g.fills.filter fun x => x.line != line }
      | none => s
    if src.pkt.isNone then (s.dropL1 line fun e => pres.getLsbD e).modLine line fun l => { l with pres := 0 }
    else
      { s with engines := s.engines.mapIdx fun e g =>
          if pres.getLsbD e && src.eng != some e && !g.binv.any (fun x => x.1 = line && x.2 = src.pkt)
          then { g with binv := g.binv ++ [(line, src.pkt)] } else g }
  if x.valid then
    let s := (s.monitor src sa false).hitLine line
    if x.poison && !whole then (false, s) else (true, put s (if whole then sectorOf bs else patch x.data off bs))
  else if src.sluice then
    let (d, p) := s.dramRead sa
    let s := (s.monitor src sa true).wakeStack loc
    if p && !whole then (false, s) else (true, s.toDram loc sa (if whole then sectorOf bs else patch d off bs) false)
  else if whole then (true, put ((s.monitor src sa true).enterLine src line (sa / 4)) (sectorOf bs))
  else
    let (d, p, s) := s.l2Read src sa
    if p then (false, s) else (true, put s (patch d off bs))

/-! ### Byte ranges -/

/-- Bytes [a, a + n) through sectors; some address on the left when a poisoned sector is read (R209). -/
def State.readRange (s : State) (src : Src) : Nat → Nat → Nat → List (BitVec 8) × Option Nat × State
  | 0, _, _ => ([], none, s)
  | fuel + 1, a, n =>
    if n = 0 then ([], none, s)
    else
      let off := a % 32
      let k := min n (32 - off)
      let (d, p, s1) := s.readSector src a (s.backing a / 32)
      let here := ((sectorBytes d).drop off).take k
      if p then (List.replicate n 0, some (a - off), s1)
      else
        let (rest, e, s2) := s1.readRange src fuel (a + k) (n - k)
        (here ++ rest, e, s2)

/-- Parts of [a, a + n) by 64 KiB page from `base` on: page, first address, bytes. -/
def pageParts (base a n : Nat) : List (Nat × Nat × Nat) :=
  let first := (a - base) / 65536
  (List.range ((a + n - base + 65535) / 65536 - first)).map fun i =>
    let lo := max a (base + (first + i) * 65536)
    (first + i, lo, min (a + n) (base + (first + i + 1) * 65536) - lo)

/-- Bytes at [a, a + n) by the addresses that hold them: page by page in the parameter region (09 R252). -/
def State.heldAt (s : State) (a : Nat) (bs : List (BitVec 8)) : List (Nat × List (BitVec 8)) :=
  let r := s.regions
  if r.paramSize = 0 || a + bs.length ≤ r.paramBase || r.paramBase + r.paramSize ≤ a then [(a, bs)]
  else (pageParts 0 a bs.length).map fun x => (s.backing x.2.1, (bs.drop (x.2.1 - a)).take x.2.2)

/-- What a recorded packet reads and writes is kept, by the addresses that hold it (09 R266). -/
def State.logRead (s : State) (src : Src) (l : List (Nat × List (BitVec 8))) : State :=
  match src.pkt with
  | some id => s.modPkt id fun p => if p.recd then { p with rdLog := p.rdLog ++ l } else p
  | none => s
def State.logWrite (s : State) (src : Src) (l : List (Nat × List (BitVec 8))) : State :=
  match src.pkt with
  | some id => s.modPkt id fun p => if p.recd then { p with wrLog := p.wrLog ++ l } else p
  | none => s
def State.captureRead (s : State) (src : Src) (a : Nat) (bs : List (BitVec 8)) : State := s.logRead src (s.heldAt a bs)
def State.captureWrite (s : State) (src : Src) (a : Nat) (bs : List (BitVec 8)) : State := s.logWrite src (s.heldAt a bs)

/-- Reads of the Fallow window and of HBM alike (12 R349). -/
def State.readBytes (s : State) (src : Src) (a n : Nat) : List (BitVec 8) × Option Nat × State :=
  if s.mode = .fallow then (readCells 0 s.fallow (a - fallowBase) n, none, s)
  else
    let (bs, e, s) := s.readRange src (n / 32 + 2) a n
    (bs, e, s.captureRead src a bs)

/-- Bytes written from address a on; the address of the sector where a partial write met poison. -/
def State.writeRange (s : State) (src : Src) : Nat → Nat → List (BitVec 8) → Option Nat × State
  | 0, _, _ => (none, s)
  | fuel + 1, a, bs =>
    if bs = [] then (none, s)
    else
      let off := a % 32
      let k := 32 - off
      match s.writeSector src (a / 32) off (bs.take k) with
      | (true, s) => s.writeRange src fuel (a + k) (bs.drop k)
      | (false, s) => (some (a - off), s)

def State.writeBytes (s : State) (src : Src) (a : Nat) (bs : List (BitVec 8)) : Option Nat × State :=
  if s.mode = .fallow then (none, { s with fallow := writeCells 0 s.fallow (a - fallowBase) bs })
  else (s.captureWrite src a bs).writeRange src (bs.length / 32 + 2) a bs

/-- Contents of a byte range as any coherent reader sees them, without changing a cache. -/
def State.peekByte (s : State) (a : Nat) : BitVec 8 :=
  if s.mode = .fallow then readCell 0 s.fallow (a - fallowBase)
  else
    let b := s.backing a
    let loc := s.locOf b
    let d : Sector := match s.findLine (loc / 128) with
      | some l =>
        let x := l.secs.getD (loc / 32 % 4) {}
        if x.valid then x.data else (s.dramRead (b / 32)).1
      | none => (s.dramRead (b / 32)).1
    BitVec.ofNat 8 (d.toNat >>> (8 * (loc % 32)))

/-! ### Range operations (R220 to R223, R357) -/

/-- Lines with a sector in [a, a + n), as device addresses / 128. -/
def linesOf (a n : Nat) : List Nat := (List.range ((a + n + 127) / 128 - a / 128)).map fun i => a / 128 + i

def State.lineAt (s : State) (la : Nat) : Option L2Line := s.findLine (s.locOf (s.backing (la * 128)) / 128)

/-- A line holds dirty data. -/
def L2Line.isDirty (l : L2Line) : Bool := l.secs.any fun x => x.valid && x.dirty

/-- Write-back of every line that `f` selects, then, when `drop` is set, their invalidation. -/
def State.walk (s : State) (f : L2Line → Bool) (drop : Bool) : State :=
  (s.mem.lines.filter f).foldl (fun s l => if drop then s.evictLine l else s.cleanLine l) s

/-- Invalidation without write-back (R222, 13 Table SEC-5). -/
def State.discard (s : State) (f : L2Line → Bool) : State :=
  let ls := s.mem.lines.filter f
  let s := ls.foldl (fun s l => s.dropL1 l.line fun _ => true) s
  s.modMem fun m => { m with lines := m.lines.filter fun l => !f l }

/-- A device address range covers the line. -/
def L2Line.within (l : L2Line) (a n : Nat) : Bool := a < (l.addr + 1) * 128 && l.addr * 128 < a + n

/-- The range leaves every cache after its dirty data has reached HBM (13 R357). -/
def State.flushOut (s : State) (a n : Nat) : State :=
  (s.walk (fun l => l.within a n) true).drainWq fun _ => true

end Sys2Proof.Machine
end

