-- ==== Sys2Proof/Machine/Sfn.lean ====
section
/-!
DEFINITION. The special functions (05_special_function_evaluation). Each function's mathematical value is computed in
fixed point at scale 2^768, far below every rounding boundary of a 16-bit destination; the 34-bit kernel value, which
R35 bounds and does not fix, comes from Config.kernelOff.
-/
namespace Sys2Proof.Machine

/-- Fraction bits of the fixed-point numbers. -/
def fW : Nat := 768

/-- One, fixed-point. -/
def fOne : Int := 1 <<< fW

/-- ln 2 at scale 2^768, rounded down. -/
def ln2F : Int :=
  0xB17217F7D1CF79ABC9E3B39803F2F6AF40F343267298B62D8A0D175B8BAAFA2BE7B876206DEBAC98559552FB4AFA1B10ED2EAE35C138214427573B291169B8253E96CA16224AE8C51ACBDA11317C387EB9EA9BC3B136603B256FA0EC7657F74B

/-- π/2 at scale 2^1100, rounded down. -/
def pio2F : Int :=
  0x1921FB54442D18469898CC51701B839A252049C1114CF98E804177D4C76273644A29410F31C6809BBDF2A33679A748636605614DBE4BE286E9FC26ADADAA3848BC90B6AECC4BCFD8DE89885D34C6FDAD617FEB96DE80D6FDBDC70D7F6B5133F4B5D3E4822F8963FCC9250CCA3D9C8B67B8400F97142C77E0B31B4906C38ABA734D22C7F51FA499EBF06C

/-- √(2/π) at scale 2^768, rounded down. -/
def sq2pF : Int :=
  0xCC42299EA1B284687E59E2805D5C717FA7053E60A24E0DB1808E369004C73A5D3BF158AA88FA7B6E47EBA75766E9D11BD6284EF2E17C2A264F1D32688BE119FF30505C3FB28F9C969D9B7ADCCB84672B9596A89BCD3DD46584ED26F6378ACED2

/-- 2/√π at scale 2^768, rounded down. -/
def twoSqF : Int :=
  0x120DD750429B6D11AE3A914FED7FD8688281341D7587CEA2E7342B06199CC416180EB39F0B24E1E2281806C12D98F35D77A3E9DDC91C394F0E9EEDF0EFFFD84A2A4AC3B98489B8CBD3845E8FEF6FF6AF92A45E5F27C2D6547A4F46505B5B4E62D

/-- 1/√2 at scale 2^768, rounded down. -/
def isq2F : Int :=
  0xB504F333F9DE6484597D89B3754ABE9F1D6F60BA893BA84CED17AC85833399154AFC83043AB8A2C3A8B1FE6FDC83DB390F74A85E439C7B4A780487363DFA2768D2202E8742AF1F4E53059C6011BC337BCAB1BC911688458A460ABC722F7C4E33

/-- Fixed-point quotient, toward zero. -/
def fdiv (a b : Int) : Int := Int.tdiv (a <<< fW) b

/-- Fixed-point product, toward minus infinity. -/
def fmul (a b : Int) : Int := (a * b) >>> fW

/-- A finite value as a fixed-point number at scale 2^s. -/
def toFix (s : Nat) (neg : Bool) (m : Nat) (e : Int) : Int :=
  let k : Nat := if e + s ≥ 0 then m <<< (e + s).toNat else m >>> (-(e + s)).toNat
  if neg then - (k : Int) else k

/-- A fixed-point number that stands for an irrational value near it: the set bit below marks it as inexact. -/
def ofFix (x : Int) (k : Int) : Val := .fin (x < 0) (2 * x.natAbs + 1) (k - fW - 1)

/-- Sum of r^k / k! from the term t on. -/
def expSeries (r : Int) : Nat → Nat → Int → Int → Int
  | 0, _, _, acc => acc
  | fuel + 1, k, t, acc =>
    if t = 0 then acc else expSeries r fuel (k + 1) (Int.tdiv ((t * r) >>> fW) (k + 1)) (acc + t)

/-- e^r for |r| below 1, fixed-point. -/
def expFix (r : Int) : Int := expSeries r 300 0 fOne 0

/-- e^r - 1 for |r| below 1, fixed-point. -/
def expm1Fix (r : Int) : Int := expSeries r 300 1 r 0

/-- e^x for a fixed-point x, as a value. -/
def expVal (x : Int) : Val :=
  let n := Int.fdiv (2 * x + ln2F) (2 * ln2F)
  ofFix (expFix (x - n * ln2F)) n

/-- Sum of t^(2k+1) / (2k+1), t2 the square of t. -/
def atanhSeries (t2 : Int) : Nat → Nat → Int → Int → Int
  | 0, _, _, acc => acc
  | fuel + 1, n, t, acc =>
    if t = 0 then acc else atanhSeries t2 fuel (n + 2) (fmul t t2) (acc + Int.tdiv t n)

/-- ln((1+t)/(1-t)) for |t| below 0.2, fixed-point. -/
def atanh2Fix (t : Int) : Int := 2 * atanhSeries (fmul t t) 400 1 t 0

/-- ln(m * 2^e) for m > 0, fixed-point. -/
def lnFix (m : Nat) (e : Int) : Int :=
  -- m = u * 2^k with u in [0.707, 1.414)
  let l := bitLen m
  let k : Int := if 2 * m * m < 4 ^ l then (l : Int) - 1 else l
  let u := toFix fW false m (-k)
  let t := fdiv (u - fOne) (u + fOne)
  atanh2Fix t + (e + k) * ln2F

/-- ln(1+x) for a fixed-point x with |x| at most 0.35, fixed-point. -/
def ln1pFix (x : Int) : Int := atanh2Fix (fdiv x (2 * fOne + x))

/-- Alternating series of the sine and the cosine: t the term, r2 the square of r. -/
def trigSeries (r2 : Int) : Nat → Nat → Int → Int → Int
  | 0, _, _, acc => acc
  | fuel + 1, n, t, acc =>
    if t = 0 then acc
    else trigSeries r2 fuel (n + 2) (- Int.tdiv (fmul t r2) ((n + 1) * (n + 2))) (acc + t)

/-- x modulo π/2, to the nearest multiple: (quadrant modulo 4, remainder at scale 2^768). -/
def reducePio2 (neg : Bool) (m : Nat) (e : Int) : Nat × Int :=
  let x := toFix 1100 neg m e
  let n := Int.fdiv (2 * x + pio2F) (2 * pio2F)
  ((n % 4).toNat, (x - n * pio2F) >>> (332 : Nat))

def sinFix (r : Int) : Int := trigSeries (fmul r r) 300 1 r 0
def cosFix (r : Int) : Int := trigSeries (fmul r r) 300 0 fOne 0

/-- Sum of z * (2z²)^n / (1*3*...*(2n+1)). -/
def erfSeries (z2 : Int) : Nat → Nat → Int → Int → Int
  | 0, _, _, acc => acc
  | fuel + 1, n, t, acc =>
    if t = 0 then acc
    else erfSeries z2 fuel (n + 1) (Int.tdiv (2 * fmul t z2) (2 * n + 3)) (acc + t)

/-- erf z for 0 ≤ z ≤ 12, fixed-point: 2/√π * e^(-z²) times the series. -/
def erfFix (z : Int) : Int :=
  let z2 := fmul z z
  let s := erfSeries z2 1500 0 z 0
  let ev := match expVal (- z2) with
    | .fin _ m e => toFix fW false m e
    | _ => 0
  fmul (fmul twoSqF ev) s

/-- A positive value too small for any destination. -/
def tiny : Val := .fin false 1 (-600)

/-- The number itself less (or plus) a relative 2^-500. -/
def nudge (down : Bool) : Val → Val
  | .fin n m e => .fin n (if down then (m <<< 500) - 1 else (m <<< 500) + 1) (e - 500)
  | v => v

/-- m * 2^e is at least 2^k. -/
def atLeast (m : Nat) (e : Int) (k : Int) : Bool := m ≠ 0 && e + bitLen m > k

/-- e^x for a finite x; beyond ±2^14 a power of two far outside every format. -/
def expOf (n : Bool) (m : Nat) (e : Int) : Val :=
  if atLeast m e 14 then .fin false 1 (if n then -30000 else 30000)
  else expVal (toFix fW n m e)

/-- e^x - 1. -/
def expm1Of (n : Bool) (m : Nat) (e : Int) : Val :=
  if n ∧ atLeast m e 8 then nudge true (.fin true 1 0)
  else if atLeast m e (-2) then (expOf n m e).sub Val.one
  else ofFix (expm1Fix (toFix fW n m e)) 0

/-- 1 / (1 + e^-x). -/
def sigmoidOf (n : Bool) (m : Nat) (e : Int) : Val :=
  if m = 0 then .fin false 1 (-1)
  else if atLeast m e 8 then (if n then tiny else nudge true Val.one)
  else Val.div Val.one (Val.one.add (expOf (!n) m e))

/-- A value times a decimal constant p/q, kept inexact. -/
def timesRat (p q : Nat) (neg : Bool) (m : Nat) (e : Int) : Bool × Nat × Int :=
  (neg, ((m * p) <<< 700) / q, e - 700)

/-- One step over the exact bits and the factor x. -/
def gate (x : Val) (g : Val) : Val := x.mul g

/-- The functions of Table SFN-1 (R104). -/
inductive Sfn where
  | exp | exp2 | expm1 | log | log2 | log1p | recip | rsqrt | sqrt | tanh | sigmoid | erf
  | geluErf | geluTanh | geluSig | silu | softplus | sin | cos
  deriving DecidableEq, Repr

/-- Function IDs (Table SFN-1); 0x11 is not assigned. -/
def Sfn.ofId : Nat → Option Sfn
  | 0x00 => some .exp | 0x01 => some .exp2 | 0x02 => some .expm1 | 0x03 => some .log
  | 0x04 => some .log2 | 0x05 => some .log1p | 0x06 => some .recip | 0x07 => some .rsqrt
  | 0x08 => some .sqrt | 0x09 => some .tanh | 0x0A => some .sigmoid | 0x0B => some .erf
  | 0x0C => some .geluErf | 0x0D => some .geluTanh | 0x0E => some .geluSig | 0x0F => some .silu
  | 0x10 => some .softplus | 0x12 => some .sin | 0x13 => some .cos
  | _ => none

def Sfn.id : Sfn → Nat
  | .exp => 0 | .exp2 => 1 | .expm1 => 2 | .log => 3 | .log2 => 4 | .log1p => 5 | .recip => 6 | .rsqrt => 7
  | .sqrt => 8 | .tanh => 9 | .sigmoid => 10 | .erf => 11 | .geluErf => 12 | .geluTanh => 13 | .geluSig => 14
  | .silu => 15 | .softplus => 16 | .sin => 18 | .cos => 19

/-- Results at a zero or an infinite argument (R117, Table SFN-6). -/
def Sfn.special (f : Sfn) (x : Val) : Val :=
  let z := x.isZero
  let n := x.isNeg
  match f with
  | .exp | .exp2 => if z then .one else if n then .zero else .inf false
  | .expm1 => if z then x else if n then .fin true 1 0 else .inf false
  | .log | .log2 => if z then .inf true else if n then .nan else .inf false
  | .log1p => if z then x else if n then .nan else .inf false
  | .recip => if z then .inf n else .fin n 0 0
  | .rsqrt => if z then .inf n else if n then .nan else .zero
  | .sqrt => if z then x else if n then .nan else .inf false
  | .tanh | .erf => if z then x else .fin n 1 0
  | .sigmoid => if z then .fin false 1 (-1) else if n then .zero else .one
  | .geluErf | .geluTanh | .geluSig | .silu => if z then x else if n then .negZero else .inf false
  | .softplus => if z then ofFix ln2F 0 else if n then .zero else .inf false
  | .sin => if z then x else .nan
  | .cos => if z then .one else .nan

/-- Φ(x) for a finite non-zero x with |x| below 16. -/
def phiOf (n : Bool) (m : Nat) (e : Int) : Val :=
  let z := fmul (toFix fW false m e) isq2F
  let r := erfFix z
  ofFix (if n then fOne - r else fOne + r) (-1)

/-- Each function at a finite non-zero argument (R104, R118). -/
def Sfn.finite (f : Sfn) (n : Bool) (m : Nat) (e : Int) : Val :=
  let x : Val := .fin n m e
  match f with
  | .exp => expOf n m e
  | .exp2 =>
    if atLeast m e 14 then .fin false 1 (if n then -30000 else 30000)
    else
      let i := toFix 0 n (if e ≥ 0 then m else m >>> (-e).toNat) (max e 0)
      if (Val.sub x (.ofInt i)).isZero then .fin false 1 i
      else expVal (fmul (toFix fW n m e) ln2F)
  | .expm1 => expm1Of n m e
  | .log => if n then .nan else if x.eqv .one then .zero else ofFix (lnFix m e) 0
  | .log2 =>
    if n then .nan
    else if 2 ^ Nat.log2 m = m then .ofInt (e + Nat.log2 m)
    else ofFix (fdiv (lnFix m e) ln2F) 0
  | .log1p =>
    let y := Val.one.add x
    if y.isZero then .inf true
    else if y.isNeg then .nan
    else if atLeast m e (-2) then
      match y with
      | .fin _ my ey => ofFix (lnFix my ey) 0
      | _ => .nan
    else ofFix (ln1pFix (toFix fW n m e)) 0
  | .recip => Val.div .one x
  | .rsqrt => if n then .nan else Val.div .one (Val.sqrt x)
  | .sqrt => Val.sqrt x
  | .tanh =>
    if atLeast m e 7 then nudge true (.fin n 1 0)
    else
      let a := expm1Of n m (e + 1)
      Val.div a (a.add (.ofNat 2))
  | .sigmoid => sigmoidOf n m e
  | .erf =>
    if atLeast m e 3 then nudge true (.fin n 1 0)
    else
      let r := erfFix (toFix fW false m e)
      ofFix (if n then -r else r) 0
  | .geluErf =>
    if atLeast m e 4 then (if n then tiny.neg else nudge true x)
    else gate x (phiOf n m e)
  | .geluTanh =>
    if atLeast m e 6 then (if n then tiny.neg else nudge true x)
    else
      let a := toFix fW n m e
      let c := Int.tdiv (fmul (fmul a a) a * 44715) 1000000
      let u := fmul sq2pF (a + c)
      gate x (sigmoidOf (u < 0) u.natAbs (1 - fW))
  | .geluSig =>
    if atLeast m e 8 then (if n then tiny.neg else nudge true x)
    else
      let (_, m', e') := timesRat 1702 1000 n m e
      gate x (sigmoidOf n m' e')
  | .silu =>
    if atLeast m e 8 then (if n then tiny.neg else nudge true x)
    else gate x (sigmoidOf n m e)
  | .softplus =>
    if atLeast m e 8 then (if n then tiny else nudge false x)
    else
      let l (ev : Val) : Val :=
        match ev with
        | .fin _ me ee =>
          let t := toFix fW false me ee
          if t < fOne / 4 then ofFix (ln1pFix t) 0
          else match Val.one.add ev with
            | .fin _ my ey => ofFix (lnFix my ey) 0
            | _ => .nan
        | _ => .nan
      if n then l (expOf true m e) else x.add (l (expOf true m e))
  | .sin =>
    let (q, r) := reducePio2 n m e
    match q with
    | 0 => ofFix (sinFix r) 0
    | 1 => ofFix (cosFix r) 0
    | 2 => ofFix (- sinFix r) 0
    | _ => ofFix (- cosFix r) 0
  | .cos =>
    let (q, r) := reducePio2 n m e
    match q with
    | 0 => ofFix (cosFix r) 0
    | 1 => ofFix (- sinFix r) 0
    | 2 => ofFix (- cosFix r) 0
    | _ => ofFix (sinFix r) 0

/-- The mathematical value of function f at x (R104, R117, R118). -/
def Sfn.value (f : Sfn) (x : Val) : Val :=
  match x with
  | .nan => .nan
  | .inf _ => f.special x
  | .fin n m e => if m = 0 then f.special x else f.finite n m e

/-- The value leaves R113's range of its function. -/
def Sfn.outside (f : Sfn) (k : Val) : Bool :=
  match f with
  | .tanh | .erf | .sin | .cos => Val.lt .one k.abs
  | .sigmoid => k.isNeg || Val.lt .one k
  | .expm1 => Val.lt k (.fin true 1 0)
  | .exp | .exp2 | .sqrt | .softplus | .rsqrt => k.isNeg
  | _ => false

/-- The 34-bit kernel value (R35): within a relative 2^-30 of the mathematical value, which of those values is left open
(Config.kernelOff, log 20). It is the exact value where the function's value has a 34-bit significand (R114). -/
def Sfn.kernel (f : Sfn) (x : Val) : Val :=
  let y := f.value x
  match x, y, y.round34 with
  | .fin xn xm xe, .fin _ _ _, .fin rn rm re =>
    let r : Val := .fin rn rm re
    if rm = 0 ∨ r.eqv y then r
    else
      let off := Config.kernelOff f.id xn xm xe
      let k := (r.add (.fin (off < 0) off.natAbs re)).round34
      let d := (k.sub y).abs
      let bad := !(d.scaleB 30).lt y.abs || f.outside k || k.isZero || (k.isNeg != rn)
      if bad then r else k
  | _, _, r => r

/-- The functions whose limit has magnitude 1, those with the limit x at large arguments, those with a limit of zero at
arguments far below zero (R115, Table SFN-5). -/
def Sfn.toOne (f : Sfn) : Bool := f = .tanh || f = .sigmoid || f = .erf
def Sfn.toArg (f : Sfn) : Bool := f = .geluErf || f = .geluTanh || f = .geluSig || f = .silu
def Sfn.toZero (f : Sfn) : Bool := f = .exp || f = .sigmoid || f = .softplus || f.toArg

/-- x is a value of the destination. -/
def Desc.holds (d : Desc) (x : Val) : Bool := (d.read (d.write .rne x).1).eqv x

/-- The argument lies at or beyond the threshold of a limit of its function, where R115 and R116 fix the result as the
exactly rounded one: y is the function's value at x. -/
def Sfn.atLimit (f : Sfn) (d : Desc) (md : Rnd) (x y : Val) : Bool :=
  let half : Int := -(d.fmt.prec : Int) - 1              -- 2^-(p+1)
  let within (gap of : Val) : Bool := !(of.scaleB half).lt gap
  let low (k : Int) : Val := .fin false 1 k
  (f.toOne && within (Val.one.sub y.abs) .one) ||
  (f.toZero && x.isNeg && !x.abs.lt .one &&
    (if md = .rtz then y.abs.lt (low d.fmt.qmin) else !(low (d.fmt.qmin - 1)).lt y.abs)) ||
  (f.toArg && !x.isNeg && d.holds x && within (x.sub y) x) ||
  (f = .softplus && !x.isNeg &&
    (if md = .rtz then d.write .rtz y = d.write .rtz x else d.holds x && within (y.sub x) x))

/-- Under RTZ a limit that the function approaches from below in magnitude is reached at no finite argument (R116). -/
def Sfn.passesLimit (f : Sfn) (md : Rnd) (x k : Val) : Bool :=
  md = .rtz && ((f.toOne && !k.abs.lt .one) || (f.toArg && !x.isNeg && !k.lt x))

/-- A function result written to its destination (R105, R106, R109 to R116): exactly rounded where both formats have at
most 16 bits and for RECIP and SQRT, else rounded from the kernel's value. -/
def Sfn.write (f : Sfn) (small : Bool) (d : Desc) (md : Rnd) (x : Val) : Nat × Flags :=
  let y := f.value x
  let exact := (small && d.fmt != .fp32) || f = .recip || f = .sqrt
  if exact then d.write md y
  else if !d.fmt.isInt && (d.overflows md y || f.atLimit d md x y) then d.write md y
  else
    let k := f.kernel x
    if !d.fmt.isInt && (d.overflows md k || f.passesLimit md x k) then d.write md y
    else d.write md k

/-- A function value as a fused Tailrace operation reads it: rounded to FP32 under RNE first (R34, R106). -/
def Sfn.write32 (f : Sfn) (x : Val) : Val × Flags :=
  let (b, fl) := f.write false fp32 .rne x
  (f32val (BitVec.ofNat 32 b), fl)

end Sys2Proof.Machine
end

