-- ==== Sys2Proof/Machine/Acc.lean ====
section
/-!
DEFINITION. Accumulation (04_row_contexts_and_accumulation, 06 R134 to R156): keyed random values, the in-tile tree, the
combination operators, how a sum is held in each ACC_MODE, the CANONICAL tree over tile positions, the final rounding.
-/
namespace Sys2Proof.Machine

/-! ### Keyed stochastic rounding (R95 to R97) -/

/-- R95. -/
def mix64 (z : BitVec 64) : BitVec 64 :=
  let z := (z ^^^ (z >>> 30)) * 0xBF58476D1CE4E5B9#64
  let z := (z ^^^ (z >>> 27)) * 0x94D049BB133111EB#64
  z ^^^ (z >>> 31)

/-- KEYWORD of a row (R95). -/
def keyword (seed rowKey : BitVec 64) : BitVec 64 := mix64 (seed ^^^ mix64 rowKey)

/-- Locator word w2 (R96, Table ACC-6). -/
def locator (pos level point word : Nat) : BitVec 64 :=
  BitVec.ofNat 64 (pos % 2 ^ 40 + (level <<< 40) + (point <<< 46) + (word <<< 48))

/-- What fixes the random values of one row: RND, KEYWORD, and the counter of free values for SR_FREE (R97). -/
structure Key where
  mode : Nat
  word : BitVec 64
  ctr : Nat
  deriving DecidableEq, Repr

/-- The rounding mode at one locator (R31, R96, R97). -/
def Key.at (k : Key) (pos level point word : Nat) : Rnd :=
  match k.mode with
  | 0 => .rne
  | 1 => .rtz
  | 2 => .sr ((mix64 (k.word ^^^ locator pos level point word)) >>> 48).toNat
  | _ => .sr (Config.laneRandom k.ctr (k.word.toNat * 2 ^ 64 + (locator pos level point word).toNat)).toNat

/-! ### The in-tile tree (R85 to R87) -/

/-- One level of the tree: neighbours are summed, an odd last node meets only -0. -/
def pairUp : List Val → List Val
  | a :: b :: t => (a.add b).round53 :: pairUp t
  | l => l

/-- Sum of a tile's leaves (R86): ten levels, padded with -0. -/
def treeSum (l : List Val) : Val :=
  match pairUp (pairUp (pairUp (pairUp (pairUp (pairUp (pairUp (pairUp (pairUp (pairUp l))))))))) with
  | v :: _ => v
  | [] => .negZero

/-- a is greater than b, a NaN above +Infinity (R153). -/
def gtRank (a b : BitVec 32) : Bool :=
  let x := f32val a
  let y := f32val b
  if x.isNan then !y.isNan else if y.isNan then false else Val.lt y x

/-- a ranks before b (R152, R153). -/
def Rank.before (dir : Bool) (a b : Rank) : Bool :=
  let g := if dir then gtRank b.v a.v else gtRank a.v b.v
  let l := if dir then gtRank a.v b.v else gtRank b.v a.v
  g || (!l && a.idx < b.idx)

/-- A candidate put into a ranked list. -/
def insertRank (dir : Bool) (r : Rank) : List Rank → List Rank
  | [] => [r]
  | x :: t => if r.before dir x then r :: x :: t else x :: insertRank dir r t

/-- First k of the union of two ranked lists (R156). -/
def mergeRanks (dir : Bool) (k : Nat) (a b : List Rank) : List Rank :=
  (b.foldl (fun acc r => insertRank dir r acc) a).take k

/-- How results combine: sums of one or two words, SOFTMAX, MOMENTS, or a ranked list. -/
inductive AKind where
  | sum (words : Nat)
  | softmax
  | moments
  | rank (dir nanRank : Bool) (k : Nat)
  deriving DecidableEq, Repr

/-- AKind of a KIND (Table ACC-3). -/
def AKind.ofKind (kind : Nat) (dir nanRank : Bool) (k : Nat) : AKind :=
  match kind with
  | 0 | 1 => .sum 1
  | 4 => .softmax
  | 5 => .moments
  | 2 | 6 => .rank false nanRank 1
  | 3 | 7 => .rank true nanRank 1
  | _ => .rank dir nanRank k

/-- The KINDs of R156 keep a list; the others own a carry record in CANONICAL (R94). -/
def AKind.isRank : AKind → Bool
  | .rank .. => true
  | _ => false

def negInf32 : BitVec 32 := 0xFF800000#32
def posInf32 : BitVec 32 := 0x7F800000#32
def nan32 : BitVec 32 := 0x7FC00000#32
def negZero32 : BitVec 32 := 0x80000000#32

/-- The identity (R85, R134). -/
def AKind.start : AKind → Node
  | .sum w => { ws := List.replicate w (negZero32, negZero32) }
  | .softmax => { m := negInf32, ws := [(negZero32, negZero32)] }
  | .moments => { ws := [(negZero32, negZero32), (negZero32, negZero32)] }
  | .rank .. => {}

/-- Exact value of a pair. -/
def pairVal (p : Pair) : Val := (f32val p.1).add (f32val p.2)

/-- A held node as exact values. -/
def Node.raw (x : Node) : RawTile := { n := x.n, m := x.m, mi := x.mi, vs := x.ws.map pairVal, best := x.best }

/-- The maximum of two FP32 words, a NaN before everything, the first on equal values (R87, R139). -/
def max32 (a b : BitVec 32) : BitVec 32 :=
  if (f32val a).isNan || (f32val b).isNan then nan32
  else if (f32val a).lt (f32val b) then b else a

/-- The greater of two maxima with the index of the element it came from; on equal values the lower index (R87). -/
def maxAt (a b : BitVec 32 × Nat) : BitVec 32 × Nat :=
  if (f32val a.1).isNan || (f32val b.1).isNan then (nan32, min a.2 b.2)
  else if (f32val a.1).lt (f32val b.1) then b
  else if (f32val b.1).lt (f32val a.1) then a
  else if b.2 < a.2 then b else a

/-- exp(m_x - m) in the 34-bit format (R135): exactly 1 at 0, +0 below 2^-16382. -/
def expFactor (mx m : BitVec 32) : Val :=
  let d := (f32val mx).sub (f32val m)
  if d.isZero then .one
  else
    let k := Sfn.exp.kernel d
    if k.lt (.fin false 1 (-16382)) then .zero else k

/-- a is the identity of a combine that leaves the other side unchanged (R134, R143). -/
def AKind.isIdentity (k : AKind) (a : RawTile) : Bool :=
  match k with
  | .softmax => a.m == negInf32
  | .moments => a.n == 0
  | _ => false

/-- Value i of a raw result. -/
def RawTile.v (a : RawTile) (i : Nat) : Val := a.vs.getD i .negZero

/-- The combination of two results before it is held (R90 to R92, R135, R143): the exact sum of sums, the once rounded
internal value of SOFTMAX and MOMENTS. -/
def AKind.comb (k : AKind) (a b : RawTile) : RawTile :=
  match k with
  | .sum w => { n := a.n + b.n, vs := (List.range w).map fun i => (a.v i).add (b.v i) }
  | .softmax =>
    let (m, mi) := maxAt (a.m, a.mi) (b.m, b.mi)
    { n := a.n + b.n, m := m, mi := mi,
      vs := [(((a.v 0).mul (expFactor a.m m)).add ((b.v 0).mul (expFactor b.m m))).round53] }
  | .moments =>
    let n := a.n + b.n
    let nv := Val.ofNat n
    let na := Val.ofNat a.n
    let nb := Val.ofNat b.n
    let d := (b.v 0).sub (a.v 0)
    let mu := Val.div (((a.v 0).mul nv).add (d.mul nb)) nv
    let m2 := Val.div ((((a.v 1).add (b.v 1)).mul nv).add ((d.mul d).mul (na.mul nb))) nv
    { n := n, vs := [mu.round53, m2.round53] }
  | .rank dir _ kk => { n := a.n + b.n, best := mergeRanks dir kk a.best b.best }

/-! ### Holding a value (R90 to R92, R98, R99) -/

/-- A running word: saturation at the largest finite value sets OVF (R98). -/
def holdWord (md : Rnd) (e : Val) : BitVec 32 × Flags :=
  match e with
  | .fin n _ _ =>
    if fp32.overflows md e then
      ((if n then 0xFF7FFFFF#32 else 0x7F7FFFFF#32), { ovf := true })
    else (f32enc md e, {})
  | .inf n => ((if n then negInf32 else posInf32), {})
  | .nan => (nan32, { nanSeen := true })

/-- A pair (R91, R98). -/
def holdPair (md : Rnd) (e : Val) : Pair × Flags :=
  match e with
  | .nan => ((nan32, nan32), { nanSeen := true })
  | .inf n => (((if n then negInf32 else posInf32), 0), {})
  | .fin n m _ =>
    if m = 0 then (let z := if n then negZero32 else 0#32; ((z, z), {}))
    else
      let (hi, fl) := holdWord .rne e
      if fl.ovf then ((hi, 0), fl)
      else ((hi, f32enc md (e.sub (f32val hi))), {})

/-- Words held at one place: ACC_MODE 0 keeps one word (its LO is the identity -0), 1 and 2 keep pairs; CANONICAL rounds
the exact sum to the internal format first (R92). -/
def holdAll (mode : Nat) (key : Key) (pos level point : Nat) : Nat → List Val → List Pair × Flags
  | _, [] => ([], {})
  | w, v :: t =>
    let md := key.at pos level point w
    let (p, fl) : Pair × Flags :=
      match mode with
      | 0 => let (x, fl) := holdWord md v; ((x, negZero32), fl)
      | 1 => holdPair md v
      | _ => holdPair md v.round53
    let (ps, fl') := holdAll mode key pos level point (w + 1) t
    (p :: ps, fl.or fl')

def holdRaw (mode : Nat) (key : Key) (pos level point : Nat) (r : RawTile) : Node × Flags :=
  let (ws, fl) := holdAll mode key pos level point 0 r.vs
  ({ n := r.n, m := r.m, mi := r.mi, ws := ws, best := r.best }, fl)

/-- Two held nodes combined and held again (R92, R100); an identity leaves the other node unchanged. -/
def combNodes (k : AKind) (mode : Nat) (key : Key) (pos level point : Nat) (a b : Node) : Node × Flags :=
  if k.isIdentity a.raw then (b, {})
  else if k.isIdentity b.raw then (a, {})
  else holdRaw mode key pos level point (k.comb a.raw b.raw)

/-- A tile folded into a RESIDENT run at its position (R90, R91): POINT 2, level 0. -/
def foldTile (k : AKind) (mode : Nat) (key : Key) (pos : Nat) (run : Node) (t : RawTile) : Node × Flags :=
  if k.isRank then ((k.comb run.raw t |> fun r => { n := r.n, best := r.best }), {})
  else if k.isIdentity t then ({ run with n := run.n + t.n }, {})
  else if k.isIdentity run.raw then holdRaw mode key pos 0 2 { t with n := run.n + t.n }
  else holdRaw mode key pos 0 2 (k.comb run.raw t)

/-- A tile as a leaf of the CANONICAL tree (R92): POINT 0. -/
def leafTile (key : Key) (pos : Nat) (t : RawTile) : Node × Flags := holdRaw 2 key pos 0 0 t

/-! ### The CANONICAL tree (R92 to R94) -/

/-- The node of this level and position that waits here. -/
def findNode (ns : List TNode) (level pos : Nat) : Option TNode :=
  ns.find? fun x => x.level = level ∧ x.pos = pos

/-- A node joins the waiting ones: it combines with its sibling as far up as siblings wait, then waits itself, in its
level slot when it is the left child and the slot is free, else in the pending area (R94). -/
def insertNode (k : AKind) (key : Key) : Nat → Nat → Nat → Node → List TNode → List TNode × Flags
  | 0, level, pos, x, ns => ({ level := level, pos := pos, node := x, pend := true } :: ns, {})
  | fuel + 1, level, pos, x, ns =>
    match findNode ns level (if pos % 2 = 0 then pos + 1 else pos - 1) with
    | some s =>
      let rest := ns.filter fun y => y != s
      let (l, r) := if pos % 2 = 0 then (x, s.node) else (s.node, x)
      let (c, fl) := combNodes k 2 key (pos / 2) (level + 1) 1 l r
      let (out, fl') := insertNode k key fuel (level + 1) (pos / 2) c rest
      (out, fl.or fl')
    | none =>
      let slotFree := !ns.any fun y => y.level = level && !y.pend
      let pend := pos % 2 = 1 || !slotFree
      ({ level := level, pos := pos, node := x, pend := pend } :: ns, {})

/-- The node would have to wait in the pending area (R94). -/
def needsPending (pos : Nat) (ns : List TNode) : Bool :=
  (findNode ns 0 (if pos % 2 = 0 then pos + 1 else pos - 1)).isNone &&
    (pos % 2 = 1 || ns.any fun y => y.level = 0 && !y.pend)

/-- Value of the tree's node (level, pos) over the nodes that wait: a node with one wholly padded child has the value of
its other child (R93). -/
def treeValue (k : AKind) (key : Key) (ns : List TNode) : Nat → Nat → Option Node × Flags
  | 0, pos => ((findNode ns 0 pos).map (·.node), {})
  | l + 1, pos =>
    match findNode ns (l + 1) pos with
    | some x => (some x.node, {})
    | none =>
      if ns.all fun x => x.level > l + 1 || x.pos >>> (l + 1 - x.level) ≠ pos then (none, {})
      else
        let (a, fa) := treeValue k key ns l (2 * pos)
        let (b, fb) := treeValue k key ns l (2 * pos + 1)
        match a, b with
        | some x, some y =>
          let (c, fc) := combNodes k 2 key pos (l + 1) 1 x y
          (some c, (fa.or fb).or fc)
        | some x, none => (some x, fa)
        | none, y => (y, fb)

/-- The padded tree's root: 30 levels (R92, R94). -/
def treeRoot (k : AKind) (key : Key) (ns : List TNode) : Node × Flags :=
  match treeValue k key ns 30 0 with
  | (some x, fl) => (x, fl)
  | (none, fl) => (k.start, fl)

/-- The accumulated node of a context, its partials unaltered (R82, R94). -/
def Acc.root (a : Acc) (k : AKind) (mode : Nat) (key : Key) : Node × Flags :=
  if mode = 2 && !k.isRank then treeRoot k key a.nodes else (a.run, {})

/-! ### Part tree of a RESIDENT split (R100) -/

/-- One level over the parts; a part without a sibling meets the identity. -/
def partLevel (k : AKind) (mode : Nat) (key : Key) (level : Nat) : Nat → List Node → List Node × Flags
  | q, a :: b :: t =>
    let (c, f) := combNodes k mode key q level 2 a b
    let (r, f') := partLevel k mode key level (q + 1) t
    (c :: r, f.or f')
  | q, [a] =>
    let (c, f) := combNodes k mode key q level 2 a k.start
    ([c], f)
  | _, [] => ([], {})

/-- The part tree's root, up to eight parts. -/
def partTree (k : AKind) (mode : Nat) (key : Key) (parts : List Node) : Node × Flags :=
  match parts with
  | [] => (k.start, {})
  | [a] => (a, {})
  | _ =>
    if k.isRank then
      (parts.foldl (fun acc x => let r := k.comb acc.raw x.raw; { n := r.n, best := r.best }) k.start, {})
    else
      let (l1, f1) := partLevel k mode key 1 0 parts
      let (l2, f2) := if l1.length > 1 then partLevel k mode key 2 0 l1 else (l1, {})
      let (l3, f3) := if l2.length > 1 then partLevel k mode key 3 0 l2 else (l2, {})
      (l3.headD k.start, (f1.or f2).or f3)

/-! ### Tiles (R85, R134, R142, R152) -/

/-- A candidate element of a tile: its index in the row and its value; masked positions are none. -/
abbrev Leaf := Option Val

/-- Sum of w leaf sets, one list of leaves for each word. -/
def sumTile (n : Nat) (sets : List (List Leaf)) : RawTile :=
  { n := n, vs := sets.map fun ls => treeSum (ls.map fun x => x.getD .negZero) }

/-- SOFTMAX of one tile over its logits (R134); `base` is the index of its first element. -/
def softmaxTile (base : Nat) (zs : List (Option (BitVec 32))) : RawTile :=
  let cands := (zs.zipIdx base).filterMap fun (z, i) => z.map fun z => (z, i)
  let (m, mi) := match cands with
    | [] => (negInf32, base)
    | x :: t => t.foldl maxAt x
  if m = negInf32 then { n := cands.length, m := negInf32, mi := mi, vs := [.negZero] }
  else
    let e := zs.map fun z =>
      match z with
      | some z => (Sfn.exp.write32 ((f32val z).sub (f32val m))).1
      | none => .negZero
    { n := cands.length, m := m, mi := mi, vs := [treeSum e] }

/-- MOMENTS of one tile (R142). A tile of one candidate has M2 = -0 (06 Edges of R146). -/
def momentsTile (xs : List Leaf) : RawTile :=
  let n := (xs.filterMap id).length
  if n = 0 then { vs := [.negZero, .negZero] }
  else
    let mu := (Val.div (treeSum (xs.map fun x => x.getD .negZero)) (.ofNat n)).round53
    let m2 := treeSum (xs.map fun x =>
      match x with
      | some x => let d := x.sub mu; (d.mul d).round53
      | none => .negZero)
    { n := n, vs := [mu, if n = 1 ∧ m2.isZero then .negZero else m2] }

/-- Ranking of one tile (R152, R153): `base` is the index of its first element. -/
def rankTile (dir nanRank : Bool) (k base : Nat) (xs : List Leaf) : RawTile :=
  let rs := (xs.zipIdx).filterMap fun (x, i) =>
    match x with
    | some v => if v.isNan && !nanRank then none else some ({ v := f32enc .rne v, idx := base + i } : Rank)
    | none => none
  { n := (xs.filterMap id).length, best := mergeRanks dir k [] rs }

/-- The tile of an AKind over unmasked values; SUMSQ squares first at its caller. -/
def AKind.tile (k : AKind) (base : Nat) (xs : List Leaf) : RawTile :=
  match k with
  | .sum _ => sumTile (xs.filterMap id).length [xs]
  | .softmax => softmaxTile base (xs.map fun x => x.map (f32enc .rne))
  | .moments => momentsTile xs
  | .rank dir nr kk => rankTile dir nr kk base xs

/-- NAN_SEEN of a tile: a NaN was read, or its result is one (R45). -/
def RawTile.nanFlag (t : RawTile) (xs : List Leaf) : Flags :=
  { nanSeen := (xs.any fun x => (x.getD .zero).isNan) || t.vs.any Val.isNan }

/-- Absorb one tile at position pos: the running words of RESIDENT and of the ranked kinds, the tree of CANONICAL. -/
def Acc.absorb (a : Acc) (k : AKind) (mode : Nat) (key : Key) (pos : Nat) (t : RawTile) : Acc × Flags :=
  if mode = 2 && !k.isRank then
    let (x, f) := leafTile key pos t
    let (ns, f') := insertNode k key 31 0 pos x a.nodes
    ({ a with nodes := ns, run := { a.run with n := a.run.n + t.n } }, f.or f')
  else
    let (r, f) := foldTile k mode key pos a.run t
    ({ a with run := r }, f)

/-- Its nodes in the pending area (R94). -/
def Acc.pending (a : Acc) : Nat := (a.nodes.filter (·.pend)).length

/-- An empty accumulator. -/
def Acc.fresh (k : AKind) : Acc := { run := k.start, nodes := [] }

/-! ### Ranked lists as records (06 R155) -/

/-- One entry of a ranked list (Table ROW-5). -/
def rankEntry : Option Rank → List (BitVec 8)
  | some r => leBytes 4 r.v.toNat ++ leBytes 4 1 ++ leBytes 8 (r.idx % 2 ^ 40)
  | none => List.replicate 16 0

/-- The 128-byte record of eight entries in rank order, invalid ones after the valid ones. -/
def rankRecord (l : List Rank) : List (BitVec 8) := (List.range 8).flatMap fun i => rankEntry l[i]?

/-! ### Close results (R427, Tables OPC-8, ROW-2) -/

/-- The FP32 values of a SOFTMAX or MOMENTS result, or the one word of a sum, before output rounding. -/
def Node.val (x : Node) (i : Nat) : Val := pairVal (x.ws.getD i (negZero32, negZero32))

/-- One written value at the close-result locator (R427): POINT 3, LEVEL 63. -/
def closeWrite (d : Desc) (key : Key) (pos word : Nat) (v : Val) : Nat × Flags :=
  d.write (key.at pos 63 3 word) v

/-- The values a close writes: for each output position its bits (in d), with flags; then the index list. -/
def closeValues (kind : Nat) (d : Desc) (key : Key) (k : Nat) (empty : Bool) (x : Node) :
    List Nat × List Nat × Flags :=
  let noIdx := 2 ^ 64 - 1
  match kind with
  | 0 | 1 =>
    let (b, f) := closeWrite d key 0 0 (if empty then .negZero else x.val 0)
    ([b], [], f)
  | 4 =>
    if empty || x.m == negInf32 then
      let (mb, mf) := d.write .rne (.inf true)
      ([mb, 0], [], mf)
    else
      let (b, f) := closeWrite d key 0 0 (x.val 0)
      let (mb, mf) := d.write .rne (f32val x.m)
      ([mb, b], [], f.or mf)
  | 5 =>
    if empty then ([0, 0], [], {})
    else
      let (a, fa) := closeWrite d key 0 0 (x.val 0)
      let (b, fb) := closeWrite d key 0 1 (x.val 1)
      ([a, b], [], fa.or fb)
  | _ =>
    let kk := if kind = 8 then k else 1
    let rs := (List.range kk).map fun i =>
      match x.best[i]? with
      | some r => let (b, f) := closeWrite d key i 0 (f32val r.v); (b, r.idx, f)
      | none => ((0 : Nat), noIdx, ({} : Flags))
    (rs.map (·.1), rs.map (·.2.1), rs.foldl (fun f r => f.or r.2.2) {})

end Sys2Proof.Machine
end

