-- ==== Sys2Proof/Machine/RowOps.lean ====
section
/-!
DEFINITION. The compute opcodes on one tile of elements (06_row_operations, 05, 07 R175 to R179): the leaves of each
reduction, the final words of a row, and every output element.
-/
namespace Sys2Proof.Machine

/-- A tensor descriptor (R159) as an operand: `esz` is its element size in bytes, 0 for a bit mask. -/
structure TDesc where
  base : Nat
  len : Nat
  rows : Nat
  stride : Nat
  d : Desc
  rnd : Nat
  fmtWord : BitVec 32
  esz : Nat
  deriving DecidableEq, Repr

/-- Address of element j of row r (R126). -/
def TDesc.addr (t : TDesc) (r j : Nat) : Nat := t.base + r * t.stride + (if t.esz = 0 then j / 8 else j * t.esz)

/-- Bytes of one row. -/
def TDesc.rowBytes (t : TDesc) : Nat := if t.esz = 0 then (t.len + 7) / 8 else t.len * t.esz

/-- A compute packet as decoded (R157, R161, R175, R177): operands by their part, options. -/
structure Comp where
  op : Nat
  inp : TDesc
  out : Option TDesc := none
  mask : Option TDesc := none
  bias : Option TDesc := none
  second : Option TDesc := none
  stats : Option TDesc := none
  g : Option TDesc := none
  gamma : Option TDesc := none
  xhat : Option TDesc := none
  idx : Option TDesc := none
  acc : Nat := 0
  accRnd : Nat := 0
  fuse : Nat := 0
  statsIn : Bool := false
  statsOut : Bool := false
  normKind : Bool := false
  kind : Nat := 0
  dir : Bool := false
  nanRank : Bool := false
  idx64 : Bool := false
  k : Nat := 0
  func : Nat := 0
  eop : Nat := 0
  param : BitVec 32 := 0
  keyBase : BitVec 64 := 0
  deriving DecidableEq, Repr

def opCTX_FEED : Nat := 0x11
def opREDUCE : Nat := 0x18
def opSFN : Nat := 0x20
def opEWISE : Nat := 0x21
def opSOFTMAX : Nat := 0x28
def opLAYERNORM : Nat := 0x29
def opRMSNORM : Nat := 0x2A
def opSOFTMAX_BWD : Nat := 0x2B
def opNORM_BWD : Nat := 0x2C
def opCOPY : Nat := 0x38

/-- Reductions a row needs before its outputs (R84, R140, R148). NORM_BWD without STATS_IN needs two, and so three reads of
a row of several tiles (DEDUCED, log 116). -/
def Comp.phases (c : Comp) : Nat :=
  if c.op = opSOFTMAX then (if c.statsIn then 0 else 1)
  else if c.op = opNORM_BWD then (if c.statsIn then 1 else 2)
  else if c.op = opLAYERNORM ∨ c.op = opRMSNORM ∨ c.op = opSOFTMAX_BWD ∨ c.op = opREDUCE ∨ c.op = opCTX_FEED then 1
  else 0

/-- The operation writes elements after its reductions; REDUCE and CTX_FEED do not. -/
def Comp.hasOut (c : Comp) : Bool := c.op != opREDUCE && c.op != opCTX_FEED

/-- Passes over the tiles of a row of more than one tile: one per reduction and one for the outputs (R132). -/
def Comp.passes (c : Comp) : Nat := c.phases + (if c.hasOut then 1 else 0)

/-- What phase p accumulates (R134, R142, R145, R147, R148). -/
def Comp.akind (c : Comp) (p : Nat) : AKind :=
  if c.op = opSOFTMAX then .softmax
  else if c.op = opLAYERNORM then .moments
  else if c.op = opRMSNORM ∨ c.op = opSOFTMAX_BWD then .sum 1
  else if c.op = opNORM_BWD then
    (if p + 1 = c.phases then .sum 2 else if c.normKind then .sum 1 else .moments)
  else AKind.ofKind c.kind c.dir c.nanRank c.k

/-- The context KIND that phase p's implicit context shows (Table ACC-3). -/
def Comp.ctxKind (c : Comp) (p : Nat) : Nat :=
  match c.akind p with
  | .softmax => 4
  | .moments => 5
  | .sum _ => if c.op = opRMSNORM ∨ (c.op = opNORM_BWD ∧ p + 1 ≠ c.phases) then 1 else if c.op = opREDUCE then c.kind else 0
  | .rank .. => c.kind

/-- One element as read: index in the row, bits and value of the primary input, mask bit, and the other operands. -/
structure Elem where
  j : Nat
  bits : Nat
  x : Val
  keep : Bool := true
  bias : Option Val := none
  g : Val := .zero
  gamma : Val := .one
  w : Val := .zero
  deriving DecidableEq, Repr

/-- The logit (R133, R173, R176): c * x + b, or c * x without a bias (log 98), rounded once to FP32; a KIND 4 REDUCE
widens x. -/
def Comp.logit (c : Comp) (e : Elem) : BitVec 32 :=
  let cx := (f32val c.param).mul e.x
  if c.op = opREDUCE then f32enc .rne e.x
  else match e.bias with
    | some b => f32enc .rne (cx.add b)
    | none => f32enc .rne cx

/-- The element is not masked (R128). -/
def Comp.cand (c : Comp) (e : Elem) : Bool := e.keep && (e.bias.isNone || c.logit e != negInf32)

def round32 (v : Val) : Val := v.to32

/-- x-hat of NORM_BWD (R148), rounded to FP32. -/
def Comp.xhatOf (c : Comp) (stats : List (BitVec 32)) (e : Elem) : Val :=
  let mu := if c.normKind then .zero else f32val (stats.getD 0 0)
  round32 ((e.x.sub mu).mul (f32val (stats.getD 1 0)))

/-- g of NORM_BWD (R148), rounded to FP32. -/
def Comp.gOf (c : Comp) (e : Elem) : Val := if c.gamma.isSome then round32 (e.g.mul e.gamma) else round32 e.g

/-- One tile's result in phase p (R134, R142, R145, R147, R148, R173, R176), and its NAN_SEEN. -/
def Comp.tile (c : Comp) (p : Nat) (stats : List (BitVec 32)) (es : List Elem) : RawTile × Flags :=
  let lv (f : Elem → Val) : List Leaf := es.map fun e => if c.cand e then some (f e) else none
  let base := (es.head?.map (·.j)).getD 0
  let n := (es.filter c.cand).length
  let fin (t : RawTile) (ls : List Leaf) : RawTile × Flags := (t, t.nanFlag ls)
  match c.akind p with
  | .softmax =>
    let zs : List (Option (BitVec 32)) := es.map fun e => if c.cand e then some (c.logit e) else none
    fin (softmaxTile base zs) (zs.map fun z => z.map f32val)
  | .moments => fin (momentsTile (lv (·.x))) (lv (·.x))
  | .rank dir nr k => fin (rankTile dir nr k base (lv (·.x))) (lv (·.x))
  | .sum w =>
    if w = 2 then
      let a := lv c.gOf
      let b := lv fun e => (c.gOf e).mul (c.xhatOf stats e)
      fin (sumTile n [a, b]) (a ++ b)
    else
      let f : Elem → Val := fun e =>
        if c.op = opSOFTMAX_BWD then e.x.mul e.g
        else if c.op = opRMSNORM ∨ c.op = opNORM_BWD ∨ c.kind = 1 then e.x.mul e.x
        else e.x
      fin (sumTile n [lv f]) (lv f)

/-- M2 / n + eps or q / n + eps, one rounding to FP32, and its RSQRT (R144, R145); an eps of -0 is 0 (R146). -/
def rstd (m2 : Val) (n : Nat) (eps : BitVec 32) : BitVec 32 :=
  let e := if (f32val eps).isZero then .zero else f32val eps
  let v := f32enc .rne (Val.div (m2.add (e.mul (.ofNat n))) (.ofNat n))
  BitVec.ofNat 32 (Sfn.rsqrt.write false fp32 .rne (f32val v)).1

/-- The final words of phase p over a row (R136, R140, R144, R145, R147, R148), appended to those before. -/
def Comp.finish (c : Comp) (p : Nat) (n : Nat) (x : Node) (stats : List (BitVec 32)) : List (BitVec 32) :=
  match c.akind p with
  | .softmax => [x.m, f32enc .rne (x.val 0)]
  | .moments => [f32enc .rne (x.val 0), rstd (x.val 1) n c.param]
  | .rank .. => []
  | .sum w =>
    if c.op = opSOFTMAX_BWD then [f32enc .rne (x.val 0)]
    else if w = 2 then
      stats ++ [f32enc .rne (Val.div (x.val 0) (.ofNat n)), f32enc .rne (Val.div (x.val 1) (.ofNat n))]
    else [0, rstd (x.val 0) n c.param]

/-- How a row's outputs are formed (R129, R139, R140, R148 Edges). -/
inductive RowForm where
  | empty
  | nan
  | zeroR
  | plain
  deriving DecidableEq, Repr

/-- The form of a row, from its candidates and final words. -/
def Comp.rowForm (c : Comp) (cands : Nat) (stats : List (BitVec 32)) : RowForm :=
  let s0 := stats.getD 0 0
  let s1 := stats.getD 1 0
  if c.op = opSOFTMAX then
    if c.statsIn then
      if s0 = negInf32 ∨ (f32val s1).isZero then .empty
      else if (f32val s0).isNan ∨ s0 = posInf32 ∨ (f32val s1).isNan ∨ (f32val s1).isInf ∨ (f32val s1).isNeg then .nan
      else .plain
    else if cands = 0 ∨ s0 = negInf32 then .empty
    else .plain
  else if c.phases = 0 then .plain
  else if cands = 0 then .empty
  else if c.op = opNORM_BWD ∧ c.statsIn ∧ s1 = 0 then .zeroR
  else .plain

/-- The statistics row of a SOFTMAX under STATS_IN, as its row `es` makes it count: a row that R140 does not take as empty
is empty when no candidate logit lies above -Infinity (R129), and a NaN row when one is NaN or +Infinity (R139, log 99). -/
def Comp.statsFor (c : Comp) (stats : List (BitVec 32)) (es : List Elem) : List (BitVec 32) :=
  let zs := (es.filter c.cand).map c.logit
  if !(c.op = opSOFTMAX && c.statsIn) || c.rowForm 0 stats = .empty then stats
  else if zs.all fun z => z = negInf32 then [negInf32, 0]
  else if zs.any fun z => (f32val z).isNan || z = posInf32 then [nan32, nan32]
  else stats

/-- The exact output value of a candidate (R136, R144, R145, R147, R148). -/
def Comp.outVal (c : Comp) (form : RowForm) (stats : List (BitVec 32)) (e : Elem) : Val :=
  let s (i : Nat) : Val := f32val (stats.getD i 0)
  match form with
  | .nan => .nan
  | .zeroR => .zero
  | _ =>
    if c.op = opSOFTMAX then
      let ej := (Sfn.exp.write32 ((f32val (c.logit e)).sub (s 0))).1
      Val.div ej (s 1)
    else if c.op = opLAYERNORM then (e.x.sub (s 0)).mul (s 1)
    else if c.op = opRMSNORM then e.x.mul (s 1)
    else if c.op = opSOFTMAX_BWD then ((f32val c.param).mul e.x).mul (e.g.sub (s 0))
    else
      let xh := c.xhatOf stats e
      let gj := c.gOf e
      let t := if c.normKind then gj.sub (xh.mul (s 3)) else (gj.sub (s 2)).sub (xh.mul (s 3))
      (s 1).mul t

/-- NAN_SEEN of an operand read (R45). -/
def nanSeenOf (vs : List Val) : Flags := { nanSeen := vs.any Val.isNan }

/-- The fused operation (R150). -/
def fuseVal (fuse : Nat) (v w : Val) : Val := if fuse = 1 then v.add w else v.mul w

/-- EWISE (R177, R178). -/
def ewiseVal (eop : Nat) (c : Val) (a b : Val) : Val :=
  match eop with
  | 1 => a.add b
  | 2 => a.sub b
  | 3 => a.mul b
  | 4 => if a.isNan || b.isNan then .nan else if a.lt b then b else a
  | 5 => if a.isNan || b.isNan then .nan else if b.lt a then b else a
  | 6 => a.abs
  | 7 => a.neg
  | 8 => c.mul a
  | 9 => a.add c
  | _ => a

/-- The exact value and the flags of one output element before its rounding; SFN_APPLY without a fused operation is
rounded by its own rule and does not come here. -/
def Comp.elemVal (c : Comp) (form : RowForm) (stats : List (BitVec 32)) (e : Elem) : Val × Flags :=
  if c.op = opEWISE then
    (ewiseVal c.eop (f32val c.param) e.x e.g, nanSeenOf [e.x, e.g])
  else if c.op = opCOPY then (e.x, nanSeenOf [e.x])
  else if c.op = opSFN then
    let f := (Sfn.ofId c.func).getD .exp
    let (v, fl) := f.write32 e.x
    (fuseVal c.fuse v e.w, { nanSeen := fl.nanSeen || e.x.isNan || e.w.isNan })
  else
    let v := c.outVal form stats e
    if c.fuse = 0 then (v, nanSeenOf [v])
    else (fuseVal c.fuse (round32 v) e.w, nanSeenOf [v, e.w])

/-- An input format of at most 16 bits (R109). -/
def smallFmt (f : Fmt) : Bool := f != .fp32

/-- One output element: its bits and flags (R30, R34, R129, R150, R160, R178, R179). `key` carries the output's RND. -/
def Comp.outElem (c : Comp) (o : TDesc) (key : Key) (form : RowForm) (stats : List (BitVec 32)) (e : Elem) :
    Nat × Flags :=
  if c.op = opCOPY && c.inp.fmtWord == o.fmtWord then (e.bits, {})
  else if c.phases ≠ 0 && (form = .empty || !c.cand e) then (0, {})
  else if c.op = opSOFTMAX && (form = .empty || !c.cand e) then (0, {})
  else
    let md := key.at e.j 0 3 0
    if c.op = opSFN && c.fuse = 0 then
      (((Sfn.ofId c.func).getD .exp).write (smallFmt c.inp.d.fmt) o.d md e.x |> fun r =>
        (r.1, r.2.or (nanSeenOf [e.x])))
    else
      let (v, fl) := c.elemVal form stats e
      let (b, fl') := o.d.write md v
      (b, fl.or fl')

/-- One x-hat element (R149). -/
def Comp.xhatElem (c : Comp) (o : TDesc) (key : Key) (form : RowForm) (stats : List (BitVec 32)) (e : Elem) :
    Nat × Flags :=
  if form = .empty || !c.cand e then (0, {})
  else o.d.write (key.at e.j 0 3 1) (c.xhatOf stats e)

/-- The words of a statistics row written under STATS_OUT (R129, R140, R146). -/
def Comp.statsRow (c : Comp) (form : RowForm) (stats : List (BitVec 32)) : List (BitVec 32) :=
  if form = .empty then (if c.op = opSOFTMAX then [negInf32, 0] else [0, 0])
  else if c.op = opSOFTMAX then
    let m := stats.getD 0 0
    let s := stats.getD 1 0
    [if (f32val m).isNan then nan32 else m, if (f32val s).isNan then nan32 else s]
  else [stats.getD 0 0, stats.getD 1 0]

/-- Element bits as little-endian bytes. -/
def elemBytes (esz : Nat) (bs : List Nat) : List (BitVec 8) := bs.flatMap fun b => leBytes esz b

end Sys2Proof.Machine
end

