-- ==== Sys2Proof/Machine/PacketDecode.lean ====
section
/-!
DEFINITION. Decoding packets (03 R57 to R60, 07 R157 to R181): which bits are reserved, which values are legal, the
operands. An offence is a dword and a bit of it (03 Table CMD-7); the lowest one is reported.
-/
namespace Sys2Proof.Machine

/-- Properties of an opcode (07 Table OPC-5). -/
structure OpInfo where
  ctx : Bool := false
  e : Bool := false
  n : Bool := true
  f : Bool := false
  d : Bool := false
  pf : Bool := false
  hp : Bool := false
  sp : Bool := false
  sd : Bool := false
  deriving DecidableEq, Repr

/-- Table OPC-5; none for an opcode that is not in it. -/
def opInfo : Nat → Option OpInfo
  | 0x01 | 0x02 | 0x04 => some { f := true, d := true }
  | 0x03 => some { d := true, sp := true }
  | 0x05 | 0x08 => some { d := true }
  | 0x10 => some { e := true, f := true, d := true }
  | 0x11 | 0x12 | 0x13 => some { ctx := true, e := true, f := true, d := true }
  | 0x18 | 0x20 | 0x21 | 0x28 | 0x29 | 0x2A | 0x2B | 0x2C | 0x38 => some { e := true, f := true, d := true }
  | 0x30 | 0x31 | 0x32 => some { d := true }
  | 0x33 => some { d := true, sp := true }
  | 0x40 | 0x41 => some { e := true, d := true }
  | 0x48 | 0x4A => some { e := true, hp := true }
  | 0x49 => some { hp := true }
  | 0x50 | 0x58 | 0x5A | 0x62 => some {}
  | 0x51 | 0x52 | 0x59 => some { sp := true }
  | 0x5B => some { e := true }
  | 0x60 | 0x61 => some { pf := true, sd := true }
  | 0x68 | 0x69 | 0x7F => some { d := true, pf := true, sd := true }
  | 0x70 => some { f := true, d := true }
  | 0x71 => some { n := false, f := true, pf := true }
  | 0x78 => some { n := false, d := true, pf := true }
  | _ => none

/-- Dword i of a packet. -/
def Pkt.w (p : Pkt) (i : Nat) : Nat := (p.dw.getD i 0).toNat

/-- Header fields (03 Table CMD-3). -/
def Pkt.op (p : Pkt) : Nat := p.w 0 % 256
def Pkt.irq (p : Pkt) : Bool := bit (p.w 0) 8
def Pkt.noWait (p : Pkt) : Bool := bit (p.w 0) 9
def Pkt.serialAll (p : Pkt) : Bool := bit (p.w 0) 10
def Pkt.tag (p : Pkt) : BitVec 16 := BitVec.ofNat 16 (p.w 0 / 65536)
def Pkt.units (p : Pkt) : Nat := p.w 1 % 4 + 1
def Pkt.partField (p : Pkt) : Nat := field (p.w 1) 6 4
def Pkt.ctxValid (p : Pkt) : Bool := bit (p.w 1) 7
def Pkt.handle (p : Pkt) : Nat := p.w 1 / 65536
def Pkt.item (p : Pkt) : Nat := p.w 2 % 256

/-- Dwords i and i + 1 as a 64-bit value. -/
def Pkt.q (p : Pkt) (i : Nat) : Nat := p.w i + p.w (i + 1) * 2 ^ 32

/-- Its 40-bit address field. -/
def Pkt.a40 (p : Pkt) (i : Nat) : Nat := p.q i % 2 ^ 40

/-- A plain byte range as an operand. -/
def flat (a n : Nat) : TDesc := { base := a, len := n, rows := 1, stride := 0, d := { fmt := .fp32 }, rnd := 0, fmtWord := 0, esz := 1 }

/-- An offence: dword, bit. -/
abbrev Off := Nat × Nat

/-- Lowest set bit of a dword. -/
def lowBit (w : Nat) : Option Nat := (List.range 32).find? fun i => w.testBit i

/-- Reserved bits of dword i that are set: everything outside `mask` (R60). The lowest one offends; a reserved field that a
table gives a row of its own is named by the row's lowest bit instead, with `mustZero` (Table CMD-7, log 97). -/
def rsv (p : Pkt) (i mask : Nat) : List Off :=
  match lowBit (p.w i &&& (0xFFFFFFFF ^^^ mask)) with
  | some b => [(i, b)]
  | none => []

/-- Every dword of `from..to-1` that `allow` does not list is reserved. -/
def rsvAll (p : Pkt) (lo hi : Nat) (allow : List (Nat × Nat)) : List Off :=
  (List.range (hi - lo)).flatMap fun j =>
    let i := lo + j
    rsv p i (((allow.find? fun x => x.1 = i).map (·.2)).getD 0)

def allBits : Nat := 0xFFFFFFFF

/-- An offence when the condition holds. -/
def off (c : Bool) (d b : Nat) : List Off := if c then [(d, b)] else []

/-- A field of a table that must be 0. -/
def mustZero (p : Pkt) (d hi lo : Nat) : List Off := off (field (p.w d) hi lo != 0) d lo

/-- The lowest offence. -/
def lowest : List Off → Option Off
  | [] => none
  | x :: t =>
    match lowest t with
    | none => some x
    | some y => if x.1 < y.1 ∨ (x.1 = y.1 ∧ x.2 ≤ y.2) then some x else some y

/-- RESULT_0 of BAD_PARAM (Table CMD-7). -/
def offWord (o : Off) : Nat := o.1 + o.2 * 64

/-- Header checks of every packet (R60, R164), `units` the count its opcode and options give. -/
def headerOffs (s : State) (p : Pkt) (info : OpInfo) (units : Nat) : List Off :=
  let runs := match s.mode with
    | .fallow => info.f
    | .debugOpen => info.d
    | _ => info.n
  off (!runs) 0 0 ++ mustZero p 0 15 11 ++ off (p.units != units) 1 0 ++ mustZero p 1 3 2 ++ mustZero p 1 15 8 ++
  off (p.partField != p.part || (info.hp && (!s.herd.formed || s.herd.part != p.part)) ||
    (p.func != 0 && s.funcPart p.func != some p.part)) 1 4 ++ off (p.ctxValid != info.ctx) 1 7 ++ off (!p.ctxValid && p.handle != 0) 1 16

/-! ### Descriptors (R157 to R160) -/

/-- First dword of a slot (R158). -/
def slotDw (k : Nat) : Nat := if k = 0 then 4 else (k + 1) / 2 * 16 + (if k % 2 = 1 then 0 else 8)

def signed6 (v : Nat) : Int := if v ≥ 32 then (v : Int) - 64 else v

/-- A format descriptor as read (R160). -/
def descOf (w : Nat) : Desc :=
  { fmt := (Fmt.ofCode (w % 16)).getD .fp32, sat := bit w 8, daz := bit w 10, ftz := bit w 11,
    scale := signed6 (field w 21 16) }

/-- Illegal values of the format descriptor in dword d (Table OPC-2). -/
def fmtOffs (p : Pkt) (d : Nat) : List Off :=
  let w := p.w d
  off (w % 16 > 6) d 0 ++ off (field w 7 4 > 3) d 4 ++ off (field w 9 8 > 1) d 8 ++
  off (field w 21 16 != 0 && w % 16 != 5 && w % 16 != 6) d 16 ++ mustZero p d 15 12 ++ mustZero p d 31 22

/-- The format descriptor of a mask or of indices must be 0x0000_0000 (R160): its FMT field offends. -/
def zeroFmt (p : Pkt) (d : Nat) : List Off := off (p.w d != 0) d 0

/-- What an operand is: a tensor with elements of its format, a bit mask, or indices of a fixed size. -/
inductive OperKind where
  | tensor
  | mask
  | index (bytes : Nat)
  deriving DecidableEq, Repr

/-- The operand in slot k. -/
def tdesc (p : Pkt) (k : Nat) (kind : OperKind) : TDesc :=
  let b := slotDw k
  let d := descOf (p.w (b + 7))
  { base := p.a40 b, len := p.a40 (b + 2), rows := p.w (b + 4), stride := p.a40 (b + 5), d := d,
    rnd := field (p.w (b + 7)) 7 4, fmtWord := p.dw.getD (b + 7) 0,
    esz := match kind with
      | .tensor => d.fmt.bytes
      | .mask => 0
      | .index n => n }

/-- Offences of the descriptor in slot k alone: reserved bits, legal values, alignment (R29, R159, R160). -/
def slotOffs (p : Pkt) (k : Nat) (kind : OperKind) : List Off :=
  let b := slotDw k
  let t := tdesc p k kind
  let algn := max t.esz 1
  off (t.base % algn != 0) b 0 ++ mustZero p (b + 1) 31 8 ++ off (t.len = 0) (b + 2) 0 ++ mustZero p (b + 3) 31 8 ++
  off (t.rows = 0) (b + 4) 0 ++ mustZero p (b + 6) 31 8 ++ (if kind = .tensor then fmtOffs p (b + 7) else zeroFmt p (b + 7))

/-- The stride rule of the primary input and of outputs (R126). -/
def strideOffs (k : Nat) (t : TDesc) : List Off := off (t.rows > 1 && t.stride < t.rowBytes) (slotDw k + 5) 0

/-- Row length and count that an operand must have (Table ROW-1). Two operands that disagree are illegal only together,
so the lower slot of the two is named, `kl` for the length and `kr` for the count (R164). -/
def shapeOffs (kl kr : Nat) (t : TDesc) (len rows : Nat) : List Off :=
  off (t.len != len) (slotDw kl + 2) 0 ++ off (t.rows != rows) (slotDw kr + 4) 0

/-! ### Overlap (R131) -/

/-- Some row of b meets the bytes [lo, hi). -/
def rowMeets (b : TDesc) (lo hi : Nat) : Bool :=
  let n := b.rowBytes
  if b.stride = 0 then decide (b.base < hi ∧ lo < b.base + n)
  else
    let first := if lo + 1 ≤ b.base + n then 0 else (lo + 1 - b.base - n + b.stride - 1) / b.stride
    decide (first < b.rows ∧ b.base + first * b.stride < hi ∧ lo < b.base + first * b.stride + n)

/-- Bytes from the base of an operand to its last element (13 R358). -/
def TDesc.extent (t : TDesc) : Nat := (t.rows - 1) * t.stride + t.rowBytes

/-- One of n rows of a, from row r on, meets b. -/
def meetsFrom (a b : TDesc) : Nat → Nat → Bool
  | 0, _ => false
  | n + 1, r => rowMeets b (a.base + r * a.stride) (a.base + r * a.stride + a.rowBytes) || meetsFrom a b n (r + 1)

/-- Two operands share a byte. -/
def overlaps (a b : TDesc) : Bool :=
  a.base < b.base + b.extent && b.base < a.base + a.extent && meetsFrom a b (if a.stride = 0 then 1 else a.rows) 0

/-- Exact coincidence: in-place operation. -/
def coincides (a b : TDesc) : Bool := a.base = b.base && a.stride = b.stride && a.esz = b.esz

/-- Overlap offences over (slot, operand, is an output). -/
def overlapOffs (ops : List (Nat × TDesc × Bool)) : List Off :=
  ops.flatMap fun (i, a, ao) => ops.flatMap fun (j, b, bo) =>
    if i < j && (ao || bo) && overlaps a b && !(ao != bo && coincides a b) then [(slotDw i, 0)] else []

/-! ### Results of decoding -/

/-- What decoding finds: offences, operand extents (base, bytes) for R358, the rows to be reached (operand, written), the
compute packet. -/
structure Dec where
  offs : List Off := []
  extents : List (Nat × Nat) := []
  denied : Bool := false               -- a privilege refusal (group P)
  reach : List (TDesc × Bool) := []
  comp : Option Comp := none
  deriving DecidableEq, Repr

/-- Assembled decoding of a tensor opcode. `ops`: slot, operand, is an output. -/
def tensorDec (offs : List Off) (ops : List (Nat × TDesc × Bool)) (c : Comp) : Dec :=
  { offs := offs, extents := ops.map fun (_, t, _) => (t.base, t.extent), reach := ops.map fun (_, t, w) => (t, w),
    comp := some c }

/-- Units that S slots take (R158). -/
def unitsFor (slots : Nat) : Nat := 1 + slots / 2

/-- Slots of the last unit that are not in use are reserved. -/
def spareOffs (p : Pkt) (slots units : Nat) : List Off :=
  if slots % 2 = 0 ∧ slots > 0 then rsvAll p ((units - 1) * 16 + 8) (units * 16) [] else []

/-- SR_FREE is refused while a replay is armed (09 R251, 11 Table EPO-3). -/
def srFreeOffs (armed : Bool) (rnd d b : Nat) : List Off := off (armed && rnd = 3) d b

def isFinite32 (w : Nat) : Bool := (w >>> 23) % 256 != 255

/-! ### Compute opcodes (R161, R175 to R179) -/

/-- OPT0 fields of Table OPC-3: name number, high bit, low bit. -/
def opt0Fields : List (Nat × Nat × Nat) :=
  [(0, 1, 0), (1, 3, 2), (2, 4, 4), (3, 5, 5), (4, 7, 6), (5, 8, 8), (6, 9, 9), (7, 10, 10), (8, 11, 11), (9, 12, 12),
   (10, 13, 13), (11, 14, 14), (12, 15, 15), (13, 20, 16), (14, 24, 21)]

/-- Fields each opcode takes (Table OPC-9). -/
def opt0Taken (op : Nat) : List Nat :=
  if op = opREDUCE then [0, 1, 2, 14, 10, 11, 12, 13]
  else if op = opSOFTMAX then [0, 1, 2, 3, 4, 5, 6]
  else if op = opLAYERNORM ∨ op = opRMSNORM then [0, 1, 2, 4, 6]
  else if op = opSOFTMAX_BWD then [0, 1, 2, 4]
  else [0, 1, 2, 4, 5, 7, 8, 9]

/-- Fields of OPT0 that break Tables OPC-3 and OPC-9. -/
def opt0Offs (p : Pkt) (armed : Bool) : List Off :=
  let w := p.w 2
  let op := p.op
  (opt0Fields.flatMap fun (n, hi, lo) => if (opt0Taken op).contains n then [] else mustZero p 2 hi lo) ++
  mustZero p 2 31 25 ++ off (w % 4 = 3) 2 0 ++ srFreeOffs armed (field w 3 2) 2 2 ++
  off (op = opSOFTMAX && bit w 5 && !bit w 4) 2 4 ++ off (field w 7 6 = 3) 2 6 ++
  off (op = opSOFTMAX && bit w 8 && bit w 9) 2 8 ++
  (if op = opREDUCE then
    let kind := field w 24 21
    let k := field w 20 16
    off (kind > 8) 2 21 ++ off (kind != 8 && bit w 13) 2 13 ++
    off (!List.contains [2, 3, 6, 7, 8] kind && bit w 14) 2 14 ++ off (!List.contains [6, 7, 8] kind && bit w 15) 2 15 ++
    off (if kind = 8 then k = 0 || k > 16 else if kind = 6 || kind = 7 then k != 1 else k != 0) 2 16
  else [])

/-- The operands of a row operation or REDUCE in slot order (Table OPC-9): part of the operation and kind. -/
inductive Role where
  | inp | out | idx | mask | bias | second | stats | g | gamma | xhat
  deriving DecidableEq, Repr

def rowRoles (p : Pkt) : List Role :=
  let w := p.w 2
  let op := p.op
  let m : List Role := if bit w 4 && !(op = opSOFTMAX && bit w 5) then [.mask] else []
  let f : List Role := if field w 7 6 != 0 then [.second] else []
  if op = opREDUCE then
    [.inp, .out] ++ (if field w 24 21 = 6 ∨ field w 24 21 = 7 ∨ field w 24 21 = 8 then [.idx] else []) ++ m
  else if op = opSOFTMAX then
    [.inp, .out] ++ m ++ (if bit w 4 && bit w 5 then [.bias] else []) ++ f ++ (if bit w 8 || bit w 9 then [.stats] else [])
  else if op = opLAYERNORM ∨ op = opRMSNORM then [.inp, .out] ++ m ++ f ++ (if bit w 9 then [.stats] else [])
  else if op = opSOFTMAX_BWD then [.inp, .out, .g] ++ m ++ f
  else
    [.inp, .out, .g] ++ m ++ (if bit w 11 then [.gamma] else []) ++ f ++ (if bit w 8 then [.stats] else []) ++
    (if bit w 10 then [.xhat] else [])

def Role.kind (r : Role) (idx64 : Bool) : OperKind :=
  match r with
  | .mask => .mask
  | .idx => .index (if idx64 then 8 else 4)
  | _ => .tensor

def findRole (rs : List Role) (r : Role) : Option Nat := rs.findIdx? fun x => x == r

/-- Decoding of REDUCE and the row operations. -/
def decodeRow (p : Pkt) (armed : Bool) : Dec :=
  let w := p.w 2
  let op := p.op
  let kind := field w 24 21
  let roles := rowRoles p
  let n := roles.length
  let idx64 := bit w 15
  let t (r : Role) : Option TDesc := (findRole roles r).map fun k => tdesc p k (r.kind idx64)
  let inp := tdesc p 0 .tensor
  let out := tdesc p 1 .tensor
  let k := field w 20 16
  let outLen := if op = opREDUCE then (if kind = 4 ∨ kind = 5 then 2 else if kind = 8 then k else 1) else inp.len
  let isOut (r : Role) : Bool := r = .out || r = .idx || r = .xhat || (r = .stats && bit w 9)
  let shape (r : Role) : Nat :=
    match r with
    | .out | .idx => outLen
    | .second => outLen
    | .stats => 2
    | _ => inp.len
  let against (r : Role) (i : Nat) : Nat :=
    match r with
    | .out => if op = opREDUCE then i else 0
    | .idx | .second => 1
    | .stats => i
    | _ => 0
  let perSlot : List Off := (roles.zipIdx).flatMap fun (r, i) =>
    let d := tdesc p i (r.kind idx64)
    slotOffs p i (r.kind idx64) ++
    (if r = .inp then strideOffs i d else shapeOffs (against r i) 0 d (shape r) inp.rows) ++
    (if isOut r then strideOffs i d else []) ++
    off (r = .stats && field (p.w (slotDw i + 7)) 3 0 != 0) (slotDw i + 7) 0 ++
    off (r = .out && op = opREDUCE && (kind = 4 || kind = 5) && field (p.w (slotDw i + 7)) 3 0 != 0) (slotDw i + 7) 0 ++
    (if r = .out || r = .xhat then srFreeOffs armed (field (p.w (slotDw i + 7)) 7 4) (slotDw i + 7) 4 else [])
  let ops := (roles.zipIdx).map fun (r, i) => (i, tdesc p i (r.kind idx64), isOut r)
  let pw := p.w 3
  let param : List Off :=
    if op = opREDUCE then off (pw != 0) 3 0
    else if op = opSOFTMAX ∨ op = opSOFTMAX_BWD then off (!isFinite32 pw) 3 0
    else off (!isFinite32 pw || (pw ≥ 0x80000001)) 3 0
  let eight := op = opNORM_BWD && n > 7
  let longIdx := op = opREDUCE && (kind = 6 || kind = 7 || kind = 8) && !idx64 && inp.len > 2 ^ 32 - 1
  let nn := min n 7
  let offs := opt0Offs p armed ++ param ++ off eight 2 4 ++ off longIdx 2 15 ++
    (if eight then [] else perSlot ++ overlapOffs ops) ++
    off (p.w 14 != 0) 14 0 ++ off (p.w 15 != 0) 15 0 ++ spareOffs p nn (unitsFor nn)
  tensorDec offs ops
    { op := op, inp := inp, out := some out, mask := t .mask, bias := t .bias, second := t .second, stats := t .stats,
      g := t .g, gamma := t .gamma, xhat := t .xhat, idx := t .idx, acc := w % 4, accRnd := field w 3 2,
      fuse := if op = opREDUCE then 0 else field w 7 6, statsIn := bit w 8, statsOut := bit w 9, normKind := bit w 12, kind := kind,
      dir := bit w 13, nanRank := bit w 14, idx64 := idx64, k := k, param := p.dw.getD 3 0,
      keyBase := BitVec.ofNat 64 (p.q 12) }

/-- Units of REDUCE and the row operations. Eight operands have no unit count: R176 names MASK_EN, whatever UNITS says. -/
def rowUnits (p : Pkt) : Nat := if (rowRoles p).length > 7 then p.units else unitsFor (rowRoles p).length

/-- Decoding of SFN_APPLY, EWISE and COPY (R177 to R179). DEDUCED, log 117: a stride of a between 1 and a row's bytes less one
is illegal. -/
def decodeElem (p : Pkt) (armed : Bool) : Dec :=
  let w := p.w 2
  let op := p.op
  let fuse := if op = opSFN then field w 9 8 else 0
  let eop := if op = opEWISE then w % 16 else 0
  let third := (op = opSFN && fuse != 0 && fuse != 3) || (op = opEWISE && 1 ≤ eop && eop ≤ 5)
  let inp := tdesc p 0 .tensor
  let out := tdesc p 1 .tensor
  let sec := tdesc p 2 .tensor
  let n := if third then 3 else 2
  let opt : List Off :=
    if op = opSFN then off (Sfn.ofId (w % 256)).isNone 2 0 ++ off (fuse = 3) 2 8 ++ mustZero p 2 31 10
    else if op = opEWISE then off (eop > 9) 2 0 ++ mustZero p 2 31 4
    else off (w != 0) 2 0
  let scalar := op = opEWISE && (eop = 8 || eop = 9)
  let param := if scalar then off (!isFinite32 (p.w 3)) 3 0 else off (p.w 3 != 0) 3 0
  let inStride : List Off :=
    if op = opCOPY ∨ inp.stride = 0 then [] else strideOffs 0 inp
  let offs := opt ++ param ++ slotOffs p 0 .tensor ++ inStride ++ slotOffs p 1 .tensor ++
    shapeOffs 0 0 inp out.len out.rows ++ strideOffs 1 out ++
    off (op = opSFN && out.rnd ≥ 2) (slotDw 1 + 7) 4 ++ srFreeOffs armed out.rnd (slotDw 1 + 7) 4 ++
    (if third then slotOffs p 2 .tensor ++ shapeOffs 1 1 sec out.len out.rows else []) ++
    (if op = opCOPY then [] else overlapOffs ([(0, inp, false), (1, out, true)] ++ (if third then [(2, sec, false)] else []))) ++
    off (p.w 14 != 0) 14 0 ++ off (p.w 15 != 0) 15 0 ++ spareOffs p n 2
  tensorDec offs ([(0, inp, false), (1, out, true)] ++ (if third then [(2, sec, false)] else []))
    { op := op, inp := inp, out := some out, second := if op = opSFN && third then some sec else none,
      g := if op = opEWISE && third then some sec else none, fuse := fuse, func := w % 256, eop := eop,
      param := p.dw.getD 3 0, keyBase := BitVec.ofNat 64 (p.q 12) }

/-- Decoding of CTX_FEED (R173), with its context's KIND. -/
def decodeFeed (p : Pkt) (c : Option Ctx) : Dec :=
  let w := p.w 2
  let masked := bit w 4
  let inp := tdesc p 0 .tensor
  let mask := tdesc p 1 .mask
  let kind := (c.map (·.kind)).getD 0
  let offs := rsv p 2 0x10 ++
    (match c with
      | none => []   -- a handle that is none of its partition's contexts gives no KIND to judge PARAM0 by
      | some c => if c.kind = 4 then off (!isFinite32 (p.w 3)) 3 0 else off (p.w 3 != 0) 3 0) ++
    slotOffs p 0 .tensor ++ off (inp.rows > 1) (slotDw 0 + 4) 0 ++ off (inp.stride != 0) (slotDw 0 + 5) 0 ++
    (if masked then slotOffs p 1 .mask ++ shapeOffs 0 0 mask inp.len 1 else []) ++
    off (p.w 14 != 0) 14 0 ++ off (p.w 15 != 0) 15 0 ++ (if masked then rsvAll p 24 32 [] else [])
  tensorDec offs ([(0, inp, false)] ++ (if masked then [(1, mask, false)] else []))
    { op := opCTX_FEED, inp := inp, mask := if masked then some mask else none, kind := kind, param := p.dw.getD 3 0,
      acc := (c.map (·.mode)).getD 0, accRnd := (c.map (·.rnd)).getD 0, dir := (c.map (·.dir)).getD false,
      nanRank := (c.map (·.nanRank)).getD false, k := (c.map (·.k)).getD 0 }

/-! ### Control, context and memory opcodes (R167, R172, R174, R180, R181, R185) -/

def nopOffs (p : Pkt) : List Off := rsvAll p 4 16 []

/-- An address field with its location bit: aligned, and [63:40] reserved for HBM (Table OPC-6). -/
def addrOffs (p : Pkt) (d : Nat) (hbm : Bool) (algn : Nat) : List Off :=
  off (p.w d % algn != 0) d 0 ++ (if hbm then rsv p (d + 1) 0xFF else [])

def fenceOffs (p : Pkt) : List Off :=
  let w := p.w 2
  rsv p 2 0x1F ++ rsv p 3 0 ++
  (if bit w 1 then addrOffs p 4 (!bit w 3) 4
   else off (p.w 4 != 0) 4 0 ++ off (p.w 5 != 0) 4 0 ++ off (p.w 6 != 0) 6 0) ++
  rsv p 7 0 ++
  (if bit w 2 then addrOffs p 8 (!bit w 4) 4
   else off (p.w 8 != 0) 8 0 ++ off (p.w 9 != 0) 8 0 ++ off (p.w 10 != 0) 10 0) ++
  rsvAll p 11 16 []

def epochOffs (p : Pkt) : List Off :=
  let w := p.w 2
  rsv p 2 0x3 ++ rsv p 3 0 ++
  (if bit w 0 then addrOffs p 4 (!bit w 1) 4
   else off (p.w 4 != 0) 4 0 ++ off (p.w 5 != 0) 4 0 ++ off (p.w 6 != 0) 6 0) ++
  rsvAll p 7 16 []

def timestampOffs (p : Pkt) : List Off :=
  let w := p.w 2
  rsv p 2 0x3 ++ rsv p 3 0 ++
  (if bit w 0 then off (p.w 4 % 8 != 0) 4 0 else off (p.w 4 != 0) 4 0 ++ off (p.w 5 != 0) 4 0) ++
  rsvAll p 6 16 []

def sleepOffs (p : Pkt) : List Off := off (p.w 2 % 4 = 3) 2 0 ++ rsv p 2 0x3 ++ rsvAll p 4 16 []

def ctxOpenOffs (p : Pkt) (armed : Bool) : List Off :=
  let w := p.w 2
  let kind := field w 7 4
  let k := field w 20 16
  off (w % 4 = 3) 2 0 ++ srFreeOffs armed (field w 3 2) 2 2 ++ off (kind > 8) 2 4 ++ off (field w 11 8 > 6) 2 8 ++
  off ((kind = 4 || kind = 5) && field w 11 8 != 0) 2 8 ++
  off (bit w 12 != (kind = 8 && k > 8)) 2 12 ++ off (kind != 8 && bit w 13) 2 13 ++
  off (!List.contains [2, 3, 6, 7, 8] kind && bit w 14) 2 14 ++
  off (if kind = 8 then k = 0 || k > 16 else k != 0) 2 16 ++ mustZero p 2 15 15 ++ mustZero p 2 31 21 ++
  rsv p 3 0 ++ rsvAll p 6 16 []

/-- CTX_CLOSE (R174): fields of the result's destinations. IDX_DEST and IDX64 have no effect on a KIND without an index, and
IDX64 has none with WRITE_EN 0: both are then fields like any other, not RSV. -/
def closeOffs (p : Pkt) (c : Option Ctx) : List Off :=
  let w := p.w 2
  let f := p.w 6
  rsv p 2 0x3 ++ rsv p 3 0 ++ rsv p 5 0xFF ++
  (if bit w 0 then
    fmtOffs p 6 ++
    match c with
    | some c =>
      off (f % 16 != c.outFmt) 6 0 ++ off (field f 7 4 != c.rnd) 6 4 ++
      off (p.w 4 % (descOf f).fmt.bytes != 0) 4 0 ++
      off ((c.kind = 6 || c.kind = 7 || c.kind = 8) && p.w 8 % (if bit w 1 then 8 else 4) != 0) 8 0
    | none => []
   else off (p.a40 4 != 0) 4 0 ++ off (f != 0) 6 0 ++ off (p.a40 8 != 0) 8 0) ++
  rsv p 9 0xFF ++ rsv p 7 0 ++ rsvAll p 10 16 []

def queryOffs (p : Pkt) : List Off := rsvAll p 2 16 []

/-- PREFETCH, FLUSH_RANGE, INVAL_RANGE (R180). -/
def rangeOffs (p : Pkt) : List Off :=
  let unit := if p.op = 0x30 then 32 else 128
  (if p.op = 0x30 then off (p.w 2 % 4 = 3) 2 0 ++ rsv p 2 0x3
   else if p.op = 0x32 then rsv p 2 0x1 else rsv p 2 0) ++
  rsv p 3 0 ++ off (p.w 4 % unit != 0) 4 0 ++ rsv p 5 0xFF ++
  off (p.a40 6 = 0 || p.a40 6 % unit != 0) 6 0 ++ rsv p 7 0xFF ++ rsvAll p 8 16 []

/-- WINDOW_SET (R181): a window enabled by another partition is open to the physical function alone. -/
def windowOffs (s : State) (p : Pkt) : List Off :=
  let w := p.w 2
  let en := bit w 12
  let win := s.wins.getD (w % 16) {}
  let base := p.a40 4
  let size := p.a40 6
  off (win.enable && win.part != p.part && p.func != 0) 2 0 ++
  (if en then
    off (field w 5 4 = 3) 2 4 ++ off (field w 11 8 > 12) 2 8 ++ rsv p 2 0x1F3F ++
    off (base % 4096 != 0) 4 0 ++ rsv p 5 0xFF ++ off (size = 0 || size % 4096 != 0) 6 0 ++ rsv p 7 0xFF ++
    off (size != 0 && (s.firstBad p.part true base size).isSome) 4 0
   else
    mustZero p 2 5 4 ++ mustZero p 2 11 8 ++ rsv p 2 0x1F3F ++ off (p.a40 4 != 0) 4 0 ++ rsv p 5 0xFF ++
    off (p.a40 6 != 0) 6 0 ++ rsv p 7 0xFF) ++
  rsv p 3 0 ++ rsvAll p 8 16 []

def enginesOffs (p : Pkt) : List Off := off (p.w 2 % 256 = 0) 2 0 ++ rsv p 2 0xFF ++ rsvAll p 3 16 []
def seedOffs (p : Pkt) : List Off := rsvAll p 4 16 []
def fallowExitOffs (p : Pkt) : List Off := rsv p 2 0x1 ++ rsvAll p 3 16 []
def accReadOffs (p : Pkt) : List Off :=
  rsv p 2 0x7FF ++ rsv p 3 0 ++ off (p.w 4 % 64 != 0) 4 0 ++ rsv p 5 0xFF ++ rsvAll p 6 16 []

end Sys2Proof.Machine
end

