-- ==== Sys2Proof/Machine/Segs.lean ====
section
/-!
DEFINITION. Segments: how a compute packet is cut into them and which one an engine would take (03 R55, R66; 04 R84, R95).
-/
namespace Sys2Proof.Machine

/-! ### The compute packet behind a running packet -/

/-- Decoding of a compute opcode or a feed. -/
def State.decodeComp (s : State) (p : Pkt) (armed : Bool) : Dec :=
  if p.op = opCTX_FEED then decodeFeed p (s.ctx p.handle)
  else if p.op = opSFN ∨ p.op = opEWISE ∨ p.op = opCOPY then decodeElem p armed
  else decodeRow p armed

def State.compOf (s : State) (p : Pkt) : Option Comp := (s.decodeComp p false).comp

/-- Tiles of a row. -/
def Comp.tiles (c : Comp) : Nat := (c.inp.len + 1023) / 1024

/-- Rows the packet works on; a feed is one row. -/
def Comp.rowCount (c : Comp) : Nat := if c.op = opCTX_FEED then 1 else c.inp.rows

/-- Passes over a row's tiles: rows of one tile need one (06 R137). -/
def Comp.rowPasses (c : Comp) : Nat := if c.tiles ≤ 1 then 1 else max c.passes 1

/-- RESIDENT segment assignment and folding apply (R66). -/
def Comp.resident (c : Comp) : Bool := c.phases != 0 && c.acc != 2

/-- A row forms its reduction in a context (R84). -/
def Comp.usesCtx (c : Comp) : Bool := c.op != opCTX_FEED && c.phases != 0 && c.tiles > 1

/-- Row key of row r (R95). -/
def Comp.keyword (c : Comp) (seed : BitVec 64) (r : Nat) : BitVec 64 := Machine.keyword seed (c.keyBase + BitVec.ofNat 64 r)

/-- Key of the accumulation roundings, and of the output roundings (R160, R427). -/
def State.accKey (s : State) (p : Pkt) (c : Comp) (r : Nat) : Key :=
  { mode := c.accRnd, word := c.keyword p.seed r, ctr := s.free }
def State.outKey (s : State) (p : Pkt) (c : Comp) (r : Nat) : Key :=
  { mode := (c.out.map (·.rnd)).getD 0, word := c.keyword p.seed r, ctr := s.free }

/-! ### Cutting segments (R66) -/

/-- The next segment of a packet and its progress with the segment cut. `pos0` is a feed's first tile position. -/
def cutSeg (id : Nat) (urgent : Bool) (c : Comp) (pos0 : Nat) (w : Work) : Option (Seg × Work) :=
  match w.back with
  | (row, tile, count, pass, k) :: t =>
    some ({ pkt := id, k := k, urgent := urgent, row0 := row, tile0 := tile, count := count, pass0 := pass,
            row := row, tile := tile, pass := pass, left := if c.tiles > 64 then count else count * c.rowPasses },
          { w with back := t })
  | [] =>
    if w.cut then none
    else
      let T := c.tiles
      let N := c.rowCount
      if T > 64 then
        let n := if c.resident then min (T - w.tile) 32768 else min (T - w.tile) (32768 - (pos0 + w.tile) % 64)
        let sg : Seg := { pkt := id, k := w.k + w.tile / 32768, urgent := urgent, row0 := w.row, tile0 := w.tile, count := n,
                          pass0 := w.pass, row := w.row, tile := w.tile, pass := w.pass, left := n }
        let w' : Work :=
          if w.tile + n < T then { w with tile := w.tile + n }
          else if w.pass + 1 < c.rowPasses then { w with tile := 0, pass := w.pass + 1 }
          else { w with tile := 0, pass := 0, row := w.row + 1, k := w.k + (T + 32767) / 32768, cut := w.row + 1 ≥ N }
        some (sg, w')
      else
        let n := min (N - w.row) (32768 / max T 1)
        let sg : Seg := { pkt := id, k := w.k, urgent := urgent, row0 := w.row, tile0 := 0, count := n * T,
                          pass0 := 0, row := w.row, tile := 0, pass := 0, left := n * T * c.rowPasses }
        some (sg, { w with row := w.row + n, k := w.k + 1, cut := w.row + n ≥ N })

/-- The tile after the one at hand: within one row cut alone, or row by row with all passes (R66, R132). -/
def Seg.advance (g : Seg) (c : Comp) : Seg :=
  let T := c.tiles
  if T > 64 then { g with tile := g.tile + 1, left := g.left - 1 }
  else if g.tile + 1 < T then { g with tile := g.tile + 1, left := g.left - 1 }
  else if g.pass + 1 < c.rowPasses then { g with tile := 0, pass := g.pass + 1, left := g.left - 1 }
  else { g with tile := 0, pass := 0, row := g.row + 1, left := g.left - 1 }

/-- The row's reductions before this pass are final. -/
def Work.rowReady (w : Work) (row pass : Nat) : Bool :=
  pass = 0 || w.rows.any fun r => r.row = row && r.phase ≥ pass

/-- The engine a segment is bound to (R66): the one at position k modulo m, or another once that one has fenced. -/
def State.mayTake (s : State) (w : Work) (c : Comp) (k e : Nat) : Bool :=
  if c.resident && w.m.length > 0 then
    let t := w.m.getD (k % w.m.length) 0
    t = e || (s.eng t).fenced
  else true

/-- The segment engine e would take from packet p. -/
def State.segFor (s : State) (e : Nat) (p : Pkt) : Option (Comp × Seg × Work) :=
  if p.stage != .running then none
  else
    match p.work, s.compOf p with
    | some w, some c =>
      match cutSeg p.id (p.cls = 0) c p.pos w with
      | some (g, w') =>
        if w.rowReady g.row0 g.pass0 && s.mayTake w c g.k e then some (c, g, w') else none
      | none => none
    | _, _ => none

/-- Packets of a partition in the order in which they are served: class, then fetch order (R55). -/
def State.byClass (s : State) (p : Nat) : List Pkt :=
  (List.range 4).flatMap fun c => s.pkts.filter fun q => q.part = p && q.cls = c

/-- An URGENT segment waits that engine e may take (R67). -/
def State.urgentFor (s : State) (e p : Nat) : Bool :=
  s.pkts.any fun q => q.part = p && q.cls = 0 && (s.segFor e q).isSome

/-- Work of the packet could be dispatched now: it has a segment that an engine of its partition may take (R55). -/
def State.hasReadySeg (s : State) (q : Pkt) : Bool :=
  q.stage = .running && (s.unfenced q.part).any fun e => (s.segFor e q).isSome

end Sys2Proof.Machine
end

