-- ==== Sys2Proof/Machine/Items.lean ====
section
/-!
DEFINITION. What CONFIG_SET and WINDOW_SET put into registers, and the machine as a packet's decode sees it: with the effects
of every packet decoded before it (07 R162, R181, R185, R187; 08 R189 to R192, R424; 09 R252; 11 R305; 13 R355).
-/
namespace Sys2Proof.Machine

/-! ### Carve-outs (08 R192, R424) -/

/-- Granules that a byte range touches. -/
def granulesOf (base size : Nat) : List Nat :=
  if size = 0 then [] else (List.range ((base + size - 1) / 2 ^ 30 + 1 - base / 2 ^ 30)).map fun i => base / 2 ^ 30 + i

def gib : Nat := 2 ^ 30

/-- A device carve-out as placed: base and bytes of its backing. -/
structure Carve where
  base : Nat
  bytes : Nat

def State.stashCarve (s : State) : Carve := { base := s.regions.stashBase, bytes := s.regions.stashSize }
def State.replayCarve (s : State) : Carve := { base := s.regions.replayBase, bytes := s.regions.replaySize }
def State.ckptCarve (s : State) : Carve := match s.regions.ckptBase with
  | some b => { base := b, bytes := 8 * gib }
  | none => { base := 0, bytes := 0 }
def State.paramCarve (s : State) : Carve := { base := s.regions.paramBase, bytes := 2 * s.regions.paramSize }

/-- Granules of the old place return to 0xF and those of the new place become 0xE. -/
def State.placeCarve (s : State) (new old : Carve) : State :=
  let set (v : Nat) (l : List Nat) (gs : List Nat) : List Nat := gs.foldl (fun l g => l.set g v) l
  s.modMem fun m => { m with
    owner := set 0xE (set 0xF m.owner (granulesOf old.base old.bytes)) (granulesOf new.base new.bytes) }

def State.stashPlace (s : State) (base size : Nat) : State :=
  let s := s.placeCarve { base := base, bytes := size } s.stashCarve
  { s with regions := { s.regions with stashBase := base, stashSize := size } }

/-- A moved or removed replay buffer holds no recording (R424). -/
def State.replayPlace (s : State) (base size : Nat) : State :=
  let s := s.placeCarve { base := base, bytes := size } s.replayCarve
  let s : State := { s with replay := { s.replay with recs := [], used := 0 } }
  { s with regions := { s.regions with replayBase := base, replaySize := size } }

/-- The reserve holds no checkpoint and an empty commit log once placed (R424). -/
def State.reservePlace (s : State) (base : Nat) : State :=
  let s := s.placeCarve { base := base, bytes := 8 * gib } s.ckptCarve
  { s with regions := { s.regions with ckptBase := some base }, train := { s.train with held := [], log := [] } }

/-- Placing the region sets its page state (R252): a page without an entry has DIRTY alone. -/
def State.paramPlace (s : State) (base size : Nat) : State :=
  let s := s.placeCarve { base := base, bytes := 2 * size } s.paramCarve
  let s : State := { s with regions := { s.regions with paramBase := base, paramSize := size, pages := [] } }
  if size = 0 then s else { s with train := { s.train with committed := 0, undoOk := false, undecided := false } }

/-! ### The registers of an item -/

/-- The region a PROTECTED_REGION item defines; a disabled one keeps the rest of its fields as given. -/
def regionOf (p : Pkt) : Region :=
  { enable := bit (p.w 3) 12, slot := field (p.w 3) 11 8, base := p.a40 4, size := p.a40 6 }

/-- PARTITION_MAP: an engine mask of 0 unmaps (11 R305). -/
def Part.remap (q : Part) (mask f : Nat) : Part :=
  { q with mask := BitVec.ofNat 8 mask, mapped := mask != 0, func := if mask = 0 then q.func else f }

/-- What a CONFIG_SET packet puts into registers (R185). -/
def State.itemRegs (s : State) (p : Pkt) : State :=
  let n := p.w 3 % 8
  match p.item with
  | 1 => s.modPart n fun q => q.remap (field (p.w 3) 15 8) (field (p.w 3) 19 16)
  | 2 => s.modPart n fun q => { q with spread := bit (p.w 3) 8 }
  | 3 => s.stashPlace (p.a40 4) (p.a40 6)
  | 4 => s.modPart n fun q => { q with ovBase := p.a40 4, ovSize := p.a40 6 }
  | 5 => s.replayPlace (p.a40 4) (p.a40 6)
  | 6 => s.reservePlace (p.a40 4)
  | 7 => s.paramPlace (p.a40 4) (p.a40 6)
  | 8 => s.modPart n fun q => { q with tickPin := bit (p.w 3) 8 }
  | 9 => s.modPart n fun q => { q with demoteEn := bit (p.w 3) 8 }
  | 10 => { s with sec := { s.sec with regions := s.sec.regions.set (p.w 3 % 16) (regionOf p) } }
  | _ => s

/-- What a WINDOW_SET packet puts into registers (R181). -/
def State.windowRegs (s : State) (p : Pkt) : State :=
  let w := p.w 2
  if bit w 12 then
    s.modWin (w % 16) fun x => { x with base := p.a40 4, size := p.a40 6, enable := true, cls := field w 5 4,
                                        quota := field w 11 8, demoted := false, part := p.part }
  else s.modWin (w % 16) fun x => { x with enable := false, demoted := false }

/-! ### What a decode sees (R162) -/

/-- The contexts of a partition after an epoch fence (04 Table ACC-4). -/
def State.fencedCtxs (s : State) (p : Nat) : List Ctx :=
  s.ctxs.filter fun c => !(c.part = p && ((s.unfenced p).contains (handleEngine c.handle) ||
    (c.lost && !(s.eng (handleEngine c.handle)).fenced)))

/-- The effect of a packet decoded earlier whose effect has not come yet, as far as a decode reads it. -/
def State.foresee (s : State) (q : Pkt) : State :=
  if q.op = 0x03 then { s with ctxs := s.fencedCtxs q.part }
  else if q.op = 0x33 then s.windowRegs q
  else if q.op = 0x68 then { s with engines := s.engines.mapIdx fun e g => if bit (q.w 2) e then { g with fenced := true } else g }
  else if q.op = 0x7F then
    let n := q.w 3 % 8
    let lose := q.item = 1 && (s.part n).mask.toNat &&& (0xFF ^^^ field (q.w 3) 15 8) != 0
    (if lose then { s with ctxs := s.fencedCtxs n } else s).itemRegs q
  else s

/-- The machine as the decode of packet p sees it: the effect of every packet decoded before it (R162, log 122). -/
def State.decodeView (s : State) (p : Pkt) : State :=
  (s.pkts.filter fun q => q.id < p.id && (q.stage = .decoded || (q.stage = .running && q.op = 0x68))).foldl State.foresee s

end Sys2Proof.Machine
end

