-- ==== Sys2Proof/Machine/Hopper.lean ====
section
/-!
DEFINITION. The Hopper manager (03_hoppers_packets_and_replies): doorbells, HOP_CTRL and HOP_IRQ writes, packet fetch,
the order of decode and dispatch, the end of a packet and its reply.
-/
namespace Sys2Proof.Machine

/-- PCIe is up: BAR0, BAR2 and doorbells are reached. -/
def State.pcieUp (s : State) : Bool :=
  (s.mode = .ready || s.mode = .fallow || s.mode = .debugOpen || s.mode = .halted) && s.pwr.plls.getLsbD 8

/-- A function that exists now: the physical function alone in FALLOW (12 R349). -/
def State.funcUp (s : State) (f : Nat) : Bool := s.pcieUp && (f = 0 || s.mode != .fallow)

/-- Packets run in these modes. -/
def State.running (s : State) : Bool := s.mode = .ready || s.mode = .fallow || s.mode = .debugOpen

/-- IDLE (14 Table REG-11): no packet fetched and not yet replied. -/
def State.idle (s : State) (h : Nat) : Bool := (s.front h).isNone

/-- Hopper n is reached by the physical function and by its FUNC (R54). -/
def State.hopReach (s : State) (f h : Nat) : Bool := f = 0 || (s.hop h).func = f

def hopOff (h : Nat) : Nat := 0x20000 + 0x40 * h

/-! ### Doorbells (R51, R52, R54, R56) -/

def State.doorbell (s : State) (f h v : Nat) (toHop : Hopper → Nat → Hopper) (size : Hopper → Nat) : State :=
  let s := s.withdraw
  let k := s.hop h
  let x := v % 65536
  if !s.hopReach f h then s.logEntry { cause := 0x02, cls := 2, hopper := h, unit := 0x41, a := BitVec.ofNat 64 x }
  else if !k.en then s.modHop h fun k => { k with dbDrop := true }
  else if x ≥ size k then
    (s.modHop h fun k => { k with dbErr := true }).logEntry
      { cause := 0x02, cls := 2, part := some k.part, hopper := h, unit := 0x41, a := BitVec.ofNat 64 x }
  else s.modHop h fun k => toHop k x

/-- DOORBELL_TAIL_WRITE. -/
def doorbellTail (f h : Nat) (v : BitVec 32) (s : State) : State :=
  s.doorbell f h v.toNat (fun k x => { k with tail := x }) fun k => 2 ^ k.cmdLog2

/-- DOORBELL_CPL_HEAD_WRITE: entries are released and CPL_FULL clears. -/
def doorbellHead (f h : Nat) (v : BitVec 32) (s : State) : State :=
  s.doorbell f h v.toNat (fun k x => { k with cplHead := x, cplFull := if x = k.cplHead then k.cplFull else false })
    fun k => 2 ^ k.cplLog2

/-! ### HOP_CTRL and HOP_IRQ (R49, R55 Edges, 14 R378, R385) -/

/-- Enabled URGENT Hoppers other than h. -/
def State.urgentOthers (s : State) (h : Nat) : Nat :=
  ((s.hops.zipIdx).filter fun (k, i) => k.en && k.cls = 0 && i != h).length

/-- The fields of a HOP_CTRL write other than EN, under the rules that hold now. -/
def State.hopFields (s : State) (f h v : Nat) : State :=
  let k := s.hop h
  let free := !k.en && s.idle h
  let part := field v 10 8
  let func := field v 15 12
  let cmd := field v 20 16
  let cpl := field v 28 24
  let locOk := !(s.mode = .fallow && k.en)     -- an enabled Hopper of FALLOW stays at LOC 0 (12 R349, log 124)
  let mapOk := f = 0 && !s.glb.lock
  let changesMap := part != k.part || func != k.func
  let cmdOk := 6 ≤ cmd && cmd ≤ 16
  let cplOk := 6 ≤ cpl && cpl ≤ 16
  let bad := (changesMap && !mapOk) || (cmd != k.cmdLog2 && !(cmdOk && free)) ||
    (cpl != k.cplLog2 && !(cplOk && free)) || (field v 2 1 != k.cls && !free) || (bit v 3 && !locOk)
  let s := s.modHop h fun k => { k with
    loc := bit v 3 && locOk, stopOnErr := bit v 4, errIrq := bit v 5,
    part := if mapOk then part else k.part, func := if mapOk then func else k.func,
    cls := if free then field v 2 1 else k.cls,
    cmdLog2 := if cmdOk && free then cmd else k.cmdLog2, cplLog2 := if cplOk && free then cpl else k.cplLog2 }
  if bad then s.regIgnored (hopOff h) v else s

/-- Indices of a Hopper whose EN is cleared while IDLE is set (R55 Edges, R71). -/
def Hopper.rewind (k : Hopper) : Hopper := { k with head := 0, tail := 0, cplTail := 0, cplHead := 0, phase := true, cplFull := false }

/-- HOP_CTRL_n written by a function that reaches it. -/
def State.hopCtrl (s : State) (f h v : Nat) : State :=
  let k := s.hop h
  if bit v 0 then
    if k.en then s.hopFields f h v
    else
      let s := (s.modHop h fun k => { k with deferred := none }).hopFields f h v
      let k := s.hop h
      if s.sec.hopLock then s
      else if (k.cls = 0 && s.urgentOthers h ≥ 16) || (s.mode = .fallow && (h ≥ 4 || k.loc)) then
        s.modHop h fun k => { k with classRefused := true }
      else
        let s := s.modHop h fun k => { k with en := true }
        { s with sec := { s.sec with nonceOk := false } }
  else if k.en then
    let s := s.modHop h fun k => { k with en := false, halted := false }
    if s.idle h then (s.hopFields f h v).modHop h Hopper.rewind
    else s.modHop h fun k => { k with deferred := some (f, BitVec.ofNat 32 v) }
  else
    let s := s.hopFields f h v
    if s.idle h then s.modHop h Hopper.rewind else s

/-- Writes to a Hopper register from a function that does not reach it (R54, 14 R376). -/
def State.hopGate (s : State) (f h off : Nat) (g : State → State) : State :=
  if !s.funcUp f then s
  else if s.hopReach f h then g s
  else s.accessDropped (hopOff h + off) f

def hopCtrlWrite (f h : Nat) (v : BitVec 32) (s : State) : State := s.hopGate f h 0 fun s => s.hopCtrl f h v.toNat

/-- The MSI-X of a Hopper (R72). -/
def State.hopIrq (s : State) (h : Nat) : State :=
  let k := s.hop h
  (s.msixSend k.func k.irqVec).modHop h fun k => { k with irqSeen := 0 }

/-- It is due by count, by a coalescing time of 0, or because the Hopper is URGENT (R72). -/
def Hopper.irqDue (k : Hopper) : Bool :=
  k.irqSeen > 0 && (k.irqSeen ≥ max k.irqCount 1 || k.irqTime = 0 || k.cls = 0)

def State.judgeIrq (s : State) (h : Nat) : State := if (s.hop h).irqDue then s.hopIrq h else s

/-- HOP_IRQ_n (14 Table REG-12): a vector beyond the function's table is illegal. -/
def hopIrqWrite (f h : Nat) (v : BitVec 32) (s : State) : State :=
  s.hopGate f h 0x28 fun s =>
    let w := v.toNat
    let vec := field w 10 0
    let ok := vec < Config.msixTableSize
    let s := s.modHop h fun k => { k with irqVec := if ok then vec else k.irqVec, irqTime := field w 21 12,
                                           irqCount := field w 29 22 }
    let s := if ok then s else s.regIgnored (hopOff h + 0x28) w
    s.judgeIrq h

def irqCoalesce (h : Nat) (s : State) : State := if (s.hop h).irqSeen > 0 then s.hopIrq h else s

/-! ### Fetch (R52, R55, R57, R58) -/

/-- Units pending in a ring. -/
def Hopper.pending (k : Hopper) : Nat := (k.tail + 2 ^ k.cmdLog2 - k.head) % 2 ^ k.cmdLog2

/-- Completion entries the device may still write (R52). -/
def Hopper.cplFree (k : Hopper) : Nat := (k.cplHead + 2 * 2 ^ k.cplLog2 - k.cplTail - 1) % 2 ^ k.cplLog2

/-- Bytes of ring memory: host memory, or HBM through L2. -/
def State.ringBytes (s : State) (k : Hopper) (a n : Nat) : List (BitVec 8) × Option Nat × State :=
  if k.loc then s.readBytes { part := some k.part } (a % 2 ^ 40) n
  else (readCells 0 s.host a n, none, s)

def dwordsOf : List (BitVec 8) → List (BitVec 32)
  | a :: b :: c :: d :: t => BitVec.ofNat 32 (ofBytes [a, b, c, d]) :: dwordsOf t
  | _ => []

/-- The n units from HOP_HEAD on. -/
def State.readUnits (s : State) (k : Hopper) : Nat → Nat → List (BitVec 32) × Option Nat × State
  | 0, _ => ([], none, s)
  | n + 1, i =>
    let (b, e, s1) := s.ringBytes k (k.cmdBase.toNat + 64 * ((k.head + i) % 2 ^ k.cmdLog2)) 64
    let (r, e', s2) := s1.readUnits k n (i + 1)
    (dwordsOf b ++ r, (match e with | some a => some a | none => e'), s2)

/-- UNITS of the packet at HOP_HEAD. -/
def State.frontUnits (s : State) (k : Hopper) : Nat :=
  match dwordsOf (s.ringBytes k (k.cmdBase.toNat + 64 * k.head + 4) 4).1 with
  | w :: _ => w.toNat % 4 + 1
  | [] => 1

/-- A complete packet of Hopper h is pending and it may be fetched but for its completion ring. -/
def State.hasPacket (s : State) (h : Nat) : Bool :=
  let k := s.hop h
  k.en && !k.halted && s.idle h && k.pending > 0 && k.pending ≥ s.frontUnits k

def State.fetchable (s : State) (h : Nat) : Bool := s.hasPacket h && (s.hop h).cplFree > 0

/-- The Hopper served next in a class: round-robin after the one served last (R55). -/
def State.nextOf (s : State) (c : Nat) : Option Nat :=
  let last := s.served.getD c 255
  ((List.range 256).map fun i => (last + 1 + i) % 256).find? fun h => (s.hop h).cls = c && s.fetchable h

/-- The Hopper fetched next: strict priority between classes (R55). -/
def State.nextHopper (s : State) : Option Nat := (List.range 4).findSome? fun c => s.nextOf c

/-- The next packet of Hopper h is recorded (09 R266). -/
def State.recordsNext (s : State) (h : Nat) : Bool :=
  match s.replay.armed with
  | some (x, count, _) => x = h && s.replay.taken < count
  | none => false

/-- PACKET_FETCH. A packet whose unit is poisoned ends with ECC_UNCORR. -/
def packetFetch (news : List Host.Cell) (s : State) : State :=
  let s := s.hostNews news
  if !s.running || s.pwr.pme then s
  else
    let hops := s.hops.mapIdx fun h k => if s.hasPacket h && k.cplFree = 0 then { k with cplFull := true } else k
    let s : State := { s with hops := hops }
    match s.nextHopper with
    | none => s
    | some h =>
      let k := s.hop h
      let n := s.frontUnits k
      let (dw, e, s) := s.readUnits k n 0
      let p : Pkt := { id := s.nextId, hop := h, cls := k.cls, part := k.part, func := k.func, dw := dw }
      let p := match e with
        | some a => { p with stage := .ended, status := .eccUncorr, r0 := BitVec.ofNat 64 a }
        | none => p
      let rec_ := s.recordsNext h
      let p := { p with recd := rec_ }
      let s : State := { s with replay := { s.replay with taken := s.replay.taken + b2n rec_ } }
      { (s.modHop h fun k => { k with head := (k.head + n) % 2 ^ k.cmdLog2 }) with
        pkts := s.pkts ++ [p], nextId := s.nextId + 1, served := s.served.set k.cls h }

/-! ### Decode and dispatch order (R61, R162, R165, R312) -/

def Pkt.isSp (p : Pkt) : Bool := ((opInfo p.op).map (·.sp)).getD false
def Pkt.isSd (p : Pkt) : Bool := ((opInfo p.op).map (·.sd)).getD false

/-- The oldest packet not yet decoded: Miller decodes in fetch order (R162). -/
def State.mayDecode (s : State) (p : Pkt) : Bool := s.pkts.all fun q => q.stage != .fetched || q.id ≥ p.id

/-- Nothing fetched earlier holds the packet back: SERIAL_ALL, Sp and Sd (R165). -/
def State.unblocked (s : State) (p : Pkt) : Bool :=
  s.pkts.all fun q =>
    !(q.id < p.id) ||
      (!(q.part = p.part && (p.serialAll || p.isSp || q.isSp)) && !p.isSd && !q.isSd)

/-- A higher class of the same partition has work that could be dispatched: a packet, or a segment of one that runs (R55). -/
def State.outranked (s : State) (p : Pkt) : Bool :=
  s.pkts.any fun q => q.part = p.part && q.cls < p.cls &&
    (((q.stage = .fetched || (q.stage = .decoded && q.wait = .none)) && s.unblocked q) || s.hasReadySeg q)

def State.mayDispatch (s : State) (p : Pkt) : Bool := s.unblocked p && !s.outranked p

/-! ### Ends and replies (R70 to R76) -/

def Status.code : Status → Nat
  | .ok => 0 | .okFlags => 1 | .badOpcode => 0x10 | .badParam => 0x11 | .badHandle => 0x12 | .ctxExhausted => 0x13
  | .memFault => 0x20 | .eccUncorr => 0x21 | .protectedDenied => 0x22 | .herdMismatch => 0x40 | .herdTimeout => 0x41
  | .commitAborted => 0x42 | .engineFenced => 0x50 | .debugLocked => 0x60 | .internal => 0x7F

def Status.good : Status → Bool
  | .ok | .okFlags => true
  | _ => false

/-- Engines drop everything of a packet that ends. -/
def Engine.forget (g : Engine) (id : Nat) : Engine :=
  { g with run := g.run.filter fun x => x.pkt != id, susp := g.susp.filter fun x => x.pkt != id,
           inbox := g.inbox.filter fun m => m.pkt != id, blocked := g.blocked.filter fun m => m.pkt != id,
           banks := g.banks.map fun b => { b with working := b.working.filter fun t => t.pkt != id,
                                                  tail := b.tail.filter fun t => t.pkt != id } }

/-- Record slots of a context are given back (04 R94). -/
def State.freeRecord (s : State) (c : Ctx) : State :=
  match c.record with
  | none => s
  | some (id, _) =>
    let e := handleEngine c.handle
    let s := s.modEng e fun g => { g with pages := g.pages.map fun r =>
      if r.id = id then { r with slots := r.slots.filter fun x => x.2 != c.handle } else r }
    -- a page without records is free; its frame, if it is out, too
    let gone := ((s.eng e).pages.filter fun r => r.id = id && r.slots = [])
    let s := s.modEng e fun g => { g with pages := g.pages.filter fun r => !(r.id = id && r.slots = []) }
    gone.foldl (fun s r => match r.at_ with
      | .frame f => s.modPart r.part fun q => { q with frames := q.frames.filter fun x => x != f }
      | .resident _ => s) s

/-- A context becomes FREE (04 R80). -/
def State.freeCtx (s : State) (h : Nat) : State :=
  match s.ctx h with
  | some c => (s.freeRecord c).dropCtx h
  | none => s

/-- A context and everything chained to it: successor and companions. -/
def State.freeAll (s : State) (h : Nat) : State :=
  let others := (s.ctxs.filter fun c => (c.companion && c.chain = h) ||
    (match s.ctx h with | some x => x.chained && c.handle = x.chain | none => false)).map (·.handle)
  (others.foldl State.freeCtx s).freeCtx h

/-- A CTX_CLOSE that ends with an error: its context returns to the state it held; under ENGINE_FENCED a home context lost with
a companion is freed (04 R80, R82, Table ACC-4). -/
def State.closeFailed (s : State) (p : Pkt) (st : Status) : State :=
  if p.op != 0x12 then s
  else if st = .engineFenced then
    match s.ctx p.handle with
    | some c => if c.lost && !(s.eng (handleEngine c.handle)).fenced then s.freeAll c.handle else s
    | none => s
  else if p.stage = .fetched then s
  else s.modCtx p.handle fun c => if c.st = .closing then { c with st := c.heldSt } else c

/-- A packet ends: its reply is due (R63). Its implicit contexts are freed when the status is an error (04 R84). -/
def State.endPkt (s : State) (id : Nat) (st : Status) (r0 r1 : Nat) (fl : Flags := {}) (ctx : Nat := 0) : State :=
  let before := s.pkt id
  let s := s.modPkt id fun p =>
    let fl := p.flags.or fl
    let used := p.stage != .fetched && ((opInfo p.op).map (·.ctx)).getD false
    let ctx := if used then p.handle else ctx
    let st := if st = .ok && fl.any then .okFlags else st
    { p with stage := .ended, wait := .none, waits := [], status := st, r0 := BitVec.ofNat 64 r0, r1 := BitVec.ofNat 64 r1, flags := fl, ctx := ctx }
  if st.good then s
  else
    let s := match before with | some p => s.closeFailed p st | none => s
    let s : State := { s with engines := s.engines.map fun g => g.forget id }
    let mine := (s.ctxs.filter fun c => match c.owner with | some (i, _) => i = id | none => false).map (·.handle)
    let s := mine.foldl State.freeCtx s
    { s with ctxs := s.ctxs.map fun c => { c with feeds := c.feeds.filter fun i => i != id } }

/-- The 32 bytes of a reply (R70, Table CMD-5). -/
def replyBytes (p : Pkt) (phase : Bool) (time : BitVec 64) : List (BitVec 8) :=
  let d0 := p.tag.toNat + p.status.code <<< 16 + (b2n p.flags.ovf) <<< 24 + (b2n p.flags.sat) <<< 25 +
    (b2n p.flags.nanSeen) <<< 26 + (b2n p.flags.emptyRow) <<< 27 + (b2n p.flags.dupFill) <<< 28 + (b2n phase) <<< 31
  let d1 := p.ctx + p.hop <<< 16 + p.op <<< 24
  leBytes 4 d0 ++ leBytes 4 d1 ++ leBytes 8 p.r0.toNat ++ leBytes 8 p.r1.toNat ++ leBytes 8 time.toNat

/-- Every write of the packet counts as having reached L2 (R218) and every sector it flushes is in DRAM (R221). -/
def State.writesDone (s : State) (p : Pkt) : Bool :=
  (s.engines.all fun g => (g.binv.all fun x => x.2 != some p.id) && (g.answers.all fun x => x.2 != some p.id)) &&
  (s.mem.wq.all fun w => !p.secs.contains w.sec)

/-- HALTED on every Hopper (R73). -/
def State.haltAll (s : State) : State := { s with hops := s.hops.map fun k => { k with halted := true } }

/-- The reply of an ended packet is written (R63, R70 to R73) and the packet leaves the device. RESULT_1 of an EPOCH_FENCE is
the time since its dispatch (11 R311). -/
def State.reply (s : State) (p : Pkt) : State :=
  let k := s.hop p.hop
  let p := if p.op = 0x03 && p.status.good then { p with r1 := s.now - p.time0 } else p
  let b := replyBytes p k.phase s.now
  let a := k.cplBase.toNat + 32 * k.cplTail
  let s :=
    if k.loc then (s.writeBytes { part := some p.part } (a % 2 ^ 40) b).2
    else { s.emit (.hostWrite k.func a b) with host := writeCells 0 s.host a b }
  let nt := (k.cplTail + 1) % 2 ^ k.cplLog2
  let counts := p.irq || (!p.status.good && k.errIrq)
  let s := s.modHop p.hop fun k => { k with
    cplTail := nt, phase := if nt = 0 then !k.phase else k.phase, done := k.done + 1,
    irqSeen := if counts then k.irqSeen + 1 else k.irqSeen,
    cplFull := k.cplFull || { k with cplTail := nt }.cplFree = 0,
    halted := k.halted || (k.stopOnErr && !p.status.good && p.status != .ctxExhausted) }
  let s := if p.status.good then s
    else s.logEntry { cause := 0x01, cls := 2, part := some p.part, hopper := p.hop, tag := p.tag, status := p.status.code,
                      a := p.r0, b := p.r1 }
  let s := if p.status = .internal then s.haltAll else s
  let s := { s with pkts := s.pkts.filter fun q => q.id != p.id }
  let s := s.judgeIrq p.hop
  match (s.hop p.hop).deferred with
  | some (f, v) =>
    if s.idle p.hop && !(s.hop p.hop).en then
      (s.modHop p.hop fun k => { k with deferred := none }).hopFields f p.hop v.toNat
    else s
  | none => s

/-- A packet decided at decode (R65): lowest offence first, then the codes in the order of R75. -/
def State.reject (s : State) (p : Pkt) (st : Status) (r0 : Nat) : State := s.endPkt p.id st r0 0

/-- Packets of the Hopper's own opcode move; every other state of the Hopper leaves the command without effect (log 2). -/
def State.withFront (s : State) (h : Nat) (sel : Pkt → Bool) (f : Pkt → State) : State :=
  match s.front h with
  | some p => if s.running && sel p && p.stage != .ended then f p else s
  | none => s

end Sys2Proof.Machine
end

