-- ==== Sys2Proof/Machine/Context.lean ====
section
/-!
DEFINITION. Row Contexts: slots, handles, record pages (04 R77 to R84, R94; 06 R155; 08 R196 to R201), and running a packet
of one opcode: decode, dispatch, body.
-/
namespace Sys2Proof.Machine

/-! ### Slots (R68, R76, R77, R79) -/

/-- Lowest slot of engine e from `lo` on that is FREE. -/
def State.freeSlot (s : State) (e lo : Nat) : Option Nat :=
  let used := (s.ctxs.filter fun c => handleEngine c.handle = e).map fun c => handleSlot c.handle
  -- at most used.length slots from lo on are taken
  ((List.range (used.length + 1)).map (· + lo)).find? fun k => k < 8192 && !used.contains k

/-- First slot a class may use (R68). -/
def slotBase (cls : Nat) : Nat := if cls = 0 then 0 else 256

/-- One slot, or a chained pair, free for the class on engine e. -/
def State.slotsOn (s : State) (e cls : Nat) (pair : Bool) : Option (Nat × Nat) :=
  match s.freeSlot e (slotBase cls) with
  | none => none
  | some a =>
    if pair then (s.freeSlot e (a + 1)).map fun b => (a, b) else some (a, a)

/-- Every slot the class may use on every engine of the partition is held by contexts opened from this Hopper (R76). -/
def State.ownSlotsOnly (s : State) (p : Pkt) : Bool :=
  (s.unfenced p.part).all fun e =>
    (s.ctxs.filter fun c => handleEngine c.handle = e && handleSlot c.handle ≥ slotBase p.cls && c.hop = p.hop).length
      = 8192 - slotBase p.cls

/-- A context enters its slot (R78, R95). -/
def State.putCtx (s : State) (c : Ctx) : State :=
  { s with ctxs := insertCtx c s.ctxs }.notePeak (handleEngine c.handle)

def ctxKind (c : Ctx) : AKind := AKind.ofKind c.kind c.dir c.nanRank c.k

/-- The key of a context (R95, R96). -/
def State.ctxKey (s : State) (c : Ctx) : Key := { mode := c.rnd, word := c.keyword, ctr := s.free }

/-! ### Record pages (08 R196 to R201) -/

def Engine.resident (g : Engine) : List RecPage := g.pages.filter fun r => match r.at_ with | .resident _ => true | .frame _ => false

/-- Scratchpad pages in use: resident record pages, the page a page-in fills, the staging pages of both segments. -/
def Engine.usedPages (g : Engine) : List Nat :=
  (g.pages.filterMap fun r => match r.at_ with | .resident n => some n | .frame _ => none) ++
  (match g.move with | some (.into _ n) => [n] | _ => []) ++
  ([g.run, g.susp].filterMap id).flatMap (·.pages)

/-- Pages 1 to 127 that are free, rising (08 R196). -/
def Engine.freeList (g : Engine) : List Nat := ((List.range 127).map (· + 1)).filter fun n => !g.usedPages.contains n
def Engine.freePages (g : Engine) : Nat := g.freeList.length

/-- The lowest free page. -/
def Engine.freePage (g : Engine) : Nat := g.freeList.headD 0

/-- Lowest free 64 KiB frame of a partition's overflow region (R198). -/
def State.freeFrame (s : State) (p : Nat) : Option Nat :=
  let q := s.part p
  (List.range (q.ovSize / 65536)).find? fun f => !q.frames.contains f

/-- The least recently used record page whose partition has a free frame (R198). -/
def State.evictable (s : State) (e : Nat) : Option (RecPage × Nat) :=
  let cands := (s.eng e).resident.filterMap fun r => (s.freeFrame r.part).map fun f => (r, f)
  if s.mode = .fallow then none
  else cands.foldl (fun acc x => match acc with
    | some y => if x.1.used < y.1.used then some x else some y
    | none => some x) none

/-- As many pages as are needed are free, or a page-out that will free one begins; no when neither can be (R198, R201). -/
inductive Room where
  | free
  | moving (s : State)
  | no

def State.makeRoom (s : State) (e : Nat) (need : Nat := 1) : Room :=
  if (s.eng e).freePages ≥ need then .free
  else if (s.eng e).move.isSome then .moving s
  else
    match s.evictable e with
    | some (r, f) =>
      .moving ((s.modEng e fun g => { g with move := some (.out r.id f) }).modPart r.part
        fun q => { q with frames := q.frames ++ [f] })
    | none => .no

/-- What a use of a context's record meets. -/
inductive RecordUse where
  | ok (s : State)
  | wait (s : State)
  | fault

def State.usePage (s : State) (e id : Nat) : State :=
  s.modEng e fun g => { g with
    useClock := g.useClock + 1,
    pages := (g.pages.map fun r => if r.id = id then { r with used := g.useClock + 1 } else r) }

/-- The record of a context is taken or brought in for the combine unit (04 R94; 06 R155; 08 R198, R201). -/
def State.useRecord (s : State) (c : Ctx) : RecordUse :=
  let e := handleEngine c.handle
  let g := s.eng e
  match c.record with
  | some (id, _) =>
    match g.pages.find? fun r => r.id = id with
    | none => .ok s
    | some r =>
      match r.at_ with
      | .resident _ => .ok (s.usePage e id)
      | .frame _ =>
        if g.move.isSome then .wait s
        else
          match s.makeRoom e with
          | .free => .wait (s.modEng e fun g => { g with move := some (.into id g.freePage) })
          | .moving s => .wait s
          | .no => .fault
  | none =>
    if !(c.kind = 8 || (c.mode = 2 && !(ctxKind c).isRank)) then .ok s
    else
      match (g.resident.find? fun r => r.part = c.part && r.slots.length < 64) with
      | some r =>
        let k := ((List.range 64).find? fun k => !r.slots.any fun x => x.1 = k).getD 0
        let s := s.modEng e fun g => { g with
          pages := g.pages.map fun x =>
          if x.id = r.id then { x with slots := x.slots ++ [(k, c.handle)] } else x }
        .ok ((s.modCtx c.handle fun c => { c with record := some (r.id, k) }).usePage e r.id)
      | none =>
        match s.makeRoom e with
        | .free =>
          let id := g.nextPage
          let s := s.modEng e fun g => { g with
            nextPage := id + 1, pages := g.pages ++
            [{ id := id, part := c.part, at_ := .resident g.freePage, slots := [(0, c.handle)], used := 0 }] }
          .ok ((s.modCtx c.handle fun c => { c with record := some (id, 0) }).usePage e id)
        | .moving s => .wait s
        | .no => .fault

/-- RESULT_0 of R201. -/
def State.overflowBase (s : State) (p : Nat) : Nat := if (s.part p).ovSize = 0 then 0 else (s.part p).ovBase

/-- The ranked lists in the record slot of a page: a TOPK context's first list, and its successor's at offset 128 (R196). -/
def State.slotLists (s : State) (r : RecPage) (k : Nat) : List (BitVec 8) :=
  match (r.slots.find? fun x => x.1 = k).bind fun x => s.ctx x.2 with
  | some c =>
    if c.kind != 8 then []
    else rankRecord (c.acc.run.best.take 8) ++ rankRecord (((s.ctx c.chain).map (·.acc.run.best)).getD (c.acc.run.best.drop 8))
  | none => []

/-- The 64 KiB that a page-out writes. The order of the slots in the page, the level slots and the state have no layout (R428):
free bytes, and a free place for each ranked list's slot. -/
def State.frameImage (s : State) (r : RecPage) : List (BitVec 8) :=
  let turn := (Config.openByte s.free 65536).toNat
  (List.range 64).flatMap fun i =>
    let l := s.slotLists r ((i + turn) % 64)
    l ++ (List.range (1024 - l.length)).map fun j => Config.openByte s.free (1024 * i + l.length + j)

/-- Overflow paging: hint EVICT_FIRST, commons ways only (R199, R207). -/
def pagingSrc (p : Nat) : Src := { part := some p, hint := .evictFirst, commons := true }

/-- Address of an overflow frame (R198). -/
def State.frameAddr (s : State) (p f : Nat) : Nat := (s.part p).ovBase + 65536 * f

/-- PAGE_OUT: the page's 64 KiB go to its frame, the page is free (R198, R199), and the page-out is counted. -/
def pageOut (e : Nat) (s : State) : State :=
  match (s.eng e).move with
  | some (.out id f) =>
    match (s.eng e).pages.find? fun r => r.id = id with
    | none => s.modEng e fun g => { g with move := none }
    | some r =>
      let s := (s.writeBytes (pagingSrc r.part) (s.frameAddr r.part f) (s.frameImage r)).2.draw
      let s := s.modEng e fun g => { g with
        move := none, pages := g.pages.map fun x => if x.id = id then { x with at_ := .frame f } else x }
      s.modPart r.part fun q => { q with pageOuts := q.pageOuts + 1 }
  | _ => s

/-- Free words for the results of a context whose record is not what it was (R428); `n` tells the contexts apart. -/
def openRank (ctr n i : Nat) : Rank :=
  { v := BitVec.ofNat 32 (ofBytes ((List.range 4).map fun j => Config.openByte ctr (n * 65536 + 16 * i + j))),
    idx := ofBytes ((List.range 5).map fun j => Config.openByte ctr (n * 65536 + 16 * i + 8 + j)) }
def openWord (ctr n i : Nat) : BitVec 32 := (openRank ctr n i).v

/-- A node whose words are free. -/
def Node.opened (x : Node) (ctr n i : Nat) : Node :=
  { x with m := openWord ctr n i, mi := (openRank ctr n i).idx,
           ws := x.ws.mapIdx fun j _ => (openWord ctr n (i + 2 * j + 1), openWord ctr n (i + 2 * j + 2)),
           best := (List.range ((Config.openByte ctr (n * 65536 + 16 * i + 15)).toNat % (x.best.length + 1))).map
             fun j => openRank ctr n (i + 8 + j) }

/-- The contexts whose records a page holds have unspecified results from now on; nothing else changes (R428). -/
def State.spoilPage (s : State) (r : RecPage) : State :=
  let hit (c : Ctx) : Bool := r.slots.any fun x => x.2 = c.handle || (s.ctx x.2).any fun y => y.chained && y.chain = c.handle
  { s with ctxs := s.ctxs.map fun c =>
      if hit c then { c with acc :=
          { run := c.acc.run.opened s.free c.handle 0,
            nodes := c.acc.nodes.mapIdx fun i (x : TNode) => if x.pend then x else { x with node := x.node.opened s.free c.handle (32 * (i + 1)) } } }
      else c }.draw

/-- PAGE_IN: the page's 64 KiB come back into the scratchpad and its frame is free. A frame with a poisoned sector gives
records whose contents are lost. -/
def pageIn (e : Nat) (s : State) : State :=
  match (s.eng e).move with
  | some (.into id n) =>
    match (s.eng e).pages.find? fun r => r.id = id with
    | none => s.modEng e fun g => { g with move := none }
    | some r =>
      match r.at_ with
      | .resident _ => s.modEng e fun g => { g with move := none }
      | .frame f =>
        let (_, bad, s) := s.readBytes (pagingSrc r.part) (s.frameAddr r.part f) 65536
        let s := if bad.isSome then s.spoilPage r else s
        let s := s.modEng e fun g => { g with
          move := none, pages := g.pages.map fun x => if x.id = id then { x with at_ := .resident n } else x }
        s.modPart r.part fun q => { q with frames := q.frames.filter fun x => x != f, pageIns := q.pageIns + 1 }
  | _ => s

/-! ### The list of a chained TOPK context (06 R155) -/

/-- What a context has accumulated, the successor's ranks 8 to 15 after its own. -/
def State.accOf (s : State) (c : Ctx) : Acc :=
  if c.chained then
    { c.acc with run := { c.acc.run with best := c.acc.run.best ++ ((s.ctx c.chain).map (·.acc.run.best)).getD [] } }
  else c.acc

/-- It is put back: ranks 8 to 15 into the successor's list. -/
def State.setAcc (s : State) (h : Nat) (a : Acc) : State :=
  match s.ctx h with
  | none => s
  | some c =>
    if c.chained then
      (s.modCtx h fun c => { c with acc := { a with run := { a.run with best := a.run.best.take 8 } } }).modCtx c.chain
        fun c => { c with acc := { c.acc with run := { c.acc.run with best := a.run.best.drop 8 } } }
    else s.modCtx h fun c => { c with acc := a }

/-! ### Handles at decode (03 Table CMD-6, R69; 04 R80 to R83) -/

/-- Tiles of part j of a row folded so far. -/
def RowSt.foldedOf (r : RowSt) (j : Nat) : Nat := ((r.folded.find? fun x => x.1 = j).map (·.2)).getD 0
def RowSt.fold (r : RowSt) (j : Nat) : RowSt := { r with folded := (r.folded.filter fun x => x.1 != j) ++ [(j, r.foldedOf j + 1)] }

/-- Codes a handle raises at decode; a feed of an ENDED context is BAD_PARAM and is judged with the fields. -/
def State.handleStatus (s : State) (p : Pkt) : Option Status :=
  match s.ctx p.handle with
  | none => some .badHandle
  | some c =>
    let e := handleEngine p.handle
    if (c.st = .closing && !c.lost) || c.part != p.part || c.companion || c.successor || c.owner.isSome then some .badHandle
    else if !(s.partEngines p.part).contains e && !(s.eng e).fenced then some .badHandle
    else if (s.eng e).fenced || c.lost then some .engineFenced
    else none

/-- The context a packet names, where it is one it may use: only then is there a KIND to judge fields by. -/
def State.ownCtx (s : State) (p : Pkt) : Option Ctx := if (s.handleStatus p).isNone then s.ctx p.handle else none

/-- What decoding decides (R65, R75): none when the packet goes on to dispatch. -/
def State.judge (s : State) (p : Pkt) (units : Nat) (d : Dec) : Option (Status × Nat) :=
  match opInfo p.op with
  | none => some (.badOpcode, 0)
  | some info =>
    if p.op = 0x78 && s.mode != .debugOpen then some (.debugLocked, 0)
    else
      match lowest (headerOffs s p info units ++ d.offs) with
      | some o => some (.badParam, offWord o)
      | none =>
        if info.pf && p.func != 0 || d.denied then some (.protectedDenied, 0)
        else
          let den := d.extents.filterMap fun (a, n) => s.firstDenied (some p.part) a n
          match den with
          | a :: t => some (.protectedDenied, t.foldl min a)
          | [] =>
            match (if info.ctx then s.handleStatus p else none) with
            | some st => some (st, 0)
            | none => if info.e && (s.unfenced p.part) = [] then some (.engineFenced, 0) else none

/-- Lowest address outside the ranges over n rows of an operand from row r on: rows rise, so the first one that has any. -/
def State.firstBadRow (s : State) (p : Nat) (w : Bool) (t : TDesc) : Nat → Nat → Option Nat
  | 0, _ => none
  | n + 1, r =>
    match s.firstBad p w (t.base + r * t.stride) t.rowBytes with
    | some a => some a
    | none => s.firstBadRow p w t n (r + 1)

/-- Lowest address outside the ranges over the rows of the operands. -/
def State.rowFault (s : State) (p : Nat) (ops : List (TDesc × Bool)) : Option Nat :=
  let bad := ops.filterMap fun (t, w) =>
    if (s.firstBad p w t.base t.extent).isNone then none
    else s.firstBadRow p w t (if t.stride = 0 then 1 else t.rows) 0
  bad.foldl (fun acc c => match acc with | some x => some (min x c) | none => some c) none

/-- One opcode: how it is recognised, its units, its decoding, what it does at decode, at dispatch, and when its command is
given again while it runs. -/
structure OpBody where
  sel : Pkt → Bool
  units : Pkt → Nat := fun _ => 1
  dec : State → Pkt → Dec := fun _ _ => {}
  atDecode : State → Pkt → State := fun s _ => s
  body : State → Pkt → State
  resume : State → Pkt → State := fun s _ => s

/-- The packet at dispatch: its time is taken (R169); a partition whose engines have all fenced since ends it (R22), operands
out of reach do (R75). -/
def State.dispatch (s : State) (o : OpBody) (p : Pkt) : State :=
  let s := ((s.modPkt p.id fun q => { q with
    stage := .running, time0 := s.now, pages0 := if q.recd then s.regions.pages else [] }).withdraw).endHint p.part
  if ((opInfo p.op).map (·.e)).getD false && s.unfenced p.part = [] then s.endPkt p.id .engineFenced 0 0
  else
    match s.rowFault p.part (o.dec s p).reach with
    | some a => s.endPkt p.id .memFault a 0
    | none => o.body s ((s.pkt p.id).getD p)

def State.tryDispatch (s : State) (o : OpBody) (id : Nat) : State :=
  match s.pkt id with
  | some p => if p.stage = .decoded && p.wait = .none && s.mayDispatch p then s.dispatch o p else s
  | none => s

/-- Miller works on the front packet of Hopper h: decoding sees what was decoded before (R61, R65, R162). -/
def State.runPacket (s : State) (h : Nat) (o : OpBody) : State :=
  s.withFront h o.sel fun p =>
    match p.stage with
    | .fetched =>
      if !s.mayDecode p then s
      else
        let v := s.decodeView p
        match v.judge p (o.units p) (o.dec v p) with
        | some (st, r0) => s.reject p st r0
        | none =>
          let s := s.modPkt p.id fun q => { q with stage := .decoded, seed := (s.part p.part).seed }
          let s := o.atDecode s ((s.pkt p.id).getD p)
          s.tryDispatch o p.id
    | .decoded => s.tryDispatch o p.id
    | .running => o.resume s p
    | .ended => s

def selOp (op : Nat) : Pkt → Bool := fun p => p.op = op

end Sys2Proof.Machine
end

