-- ==== Sys2Proof/Machine/Engine.lean ====
section
/-!
DEFINITION. Segments, tiles, drains and combine units: what an engine does with a compute packet (03 R66 to R69,
04 R84 to R94, R100, 06).
-/
namespace Sys2Proof.Machine

/-! ### Progress of a packet -/

def State.modWork (s : State) (id : Nat) (f : Work → Work) : State := s.modPkt id fun p => { p with work := p.work.map f }

def State.work (s : State) (id : Nat) : Work := ((s.pkt id).bind (·.work)).getD {}

def State.rowSt (s : State) (id row : Nat) : Option RowSt := (s.work id).rows.find? fun r => r.row = row

def State.modRow (s : State) (id row : Nat) (f : RowSt → RowSt) : State :=
  s.modWork id fun w => { w with rows := w.rows.map fun r => if r.row = row then f r else r }

def State.addFlags (s : State) (id : Nat) (fl : Flags) : State := s.modPkt id fun p => { p with flags := p.flags.or fl }

/-- Sticky flags of a context (R426). -/
def State.ctxFlags (s : State) (h : Nat) (fl : Flags) : State :=
  s.modCtx h fun c => { c with ovf := c.ovf || fl.ovf, nanSeen := c.nanSeen || fl.nanSeen }

/-- Success of a compute packet (R130, R166). -/
def State.compResult (s : State) (p : Pkt) (c : Comp) : State :=
  let w := s.work p.id
  if c.op = opCTX_FEED then
    let s := s.modCtx p.handle fun x => { x with feeds := x.feeds.filter fun i => i != p.id }
    s.endPkt p.id .ok p.pos c.tiles {} p.handle
  else if c.op = opSFN ∨ c.op = opEWISE ∨ c.op = opCOPY then s.endPkt p.id .ok (c.inp.len * c.inp.rows) 0
  else s.endPkt p.id .ok c.inp.rows (w.empty + w.short * 2 ^ 32)

/-- The packet ends when every segment has ended and every row is written (R63). -/
def State.settle (s : State) (id : Nat) : State :=
  match s.pkt id with
  | none => s
  | some p =>
    match p.work, s.compOf p with
    | some w, some c =>
      if p.stage = .running && w.cut && w.back = [] && w.live = 0 && w.finished ≥ c.rowCount then s.compResult p c else s
    | _, _ => s

/-- Parts of a RESIDENT split are combined into the home context and the companions freed (R100). -/
def State.joinParts (s : State) (p : Pkt) (c : Comp) (r : RowSt) (home : Nat) (k : AKind) : Flags × State :=
  let comps := (List.range 8).filterMap fun j => (r.parts.find? fun x => x.1 = j).map (·.2)
  if comps = [] then ({}, s)
  else
    match s.ctx home with
    | none => ({}, s)
    | some x =>
      let nodes := (s.accOf x).run :: comps.map fun h => ((s.ctx h).map (·.acc.run)).getD k.start
      let (n, f) := partTree k c.acc (s.ctxKey x) nodes
      let s := s.setAcc home { x.acc with run := n }
      (f, (comps.foldl State.freeCtx s).modRow p.id r.row fun r => { r with parts := [] })

/-- What the packet accumulates in phase p: a feed by its context, a row operation by its own reductions. -/
def Comp.accKind (c : Comp) (phase : Nat) : AKind :=
  if c.op = opCTX_FEED then AKind.ofKind c.kind c.dir c.nanRank c.k else c.akind phase

/-- A feed ends: its parts are combined into its context (R100) and it leaves the context's list. -/
def State.feedOver (s : State) (p : Pkt) (join : Bool) : State :=
  let s := match s.compOf p, s.rowSt p.id 0 with
    | some c, some r =>
      if join then
        let (f, s) := s.joinParts p c r p.handle (c.accKind 0)
        (s.addFlags p.id f).ctxFlags p.handle f
      else s
    | _, _ => s
  s.modCtx p.handle fun x => { x with feeds := x.feeds.filter fun i => i != p.id }

/-- A compute packet ends with an error: RESULT_1 counts the segments completed; a feed's folds so far stay in its context. -/
def State.compFail (s : State) (id : Nat) (st : Status) (r0 : Nat) : State :=
  let w := s.work id
  let s := match s.pkt id with
    | some p => if p.op = opCTX_FEED then s.feedOver p (st != Status.engineFenced) else s
    | none => s
  s.endPkt id st r0 (if st = .memFault ∨ st = .eccUncorr then w.done else 0)

/-! ### Contexts of rows (R79, R84, R100) -/

/-- No row of the packet waits on engine r any more. -/
def Pkt.unwait (p : Pkt) (r : Nat) : Pkt :=
  let l := p.waits.filter fun x => x != r
  { p with waits := l, wait := if l = [] && p.wait = .ctx then .none else p.wait }

/-- A context slot wanted on engine e by the row at hand on engine r: taken, or the packet waits or ends. That its own Hopper
holds every slot is judged as the wait begins (R76, R79). -/
def State.takeSlot (s : State) (p : Pkt) (r e : Nat) (pair : Bool) : Option (Nat × Nat) × State :=
  match s.slotsOn e p.cls pair with
  | some (a, b) => (some (e * 8192 + a, e * 8192 + b), s.modPkt p.id fun q => q.unwait r)
  | none =>
    let waits := ((s.pkt p.id).map (·.waits)).getD []
    if p.noWait || (!waits.contains r && s.ownSlotsOnly p) then (none, s.compFail p.id .ctxExhausted 0)
    else (none, s.modPkt p.id fun q => { q with wait := .ctx, waits := if waits.contains r then waits else waits ++ [r] })

/-- An implicit context of a row (R84), with its successor where k is above 8 (R155). -/
def State.openRow (s : State) (p : Pkt) (c : Comp) (r e row : Nat) : Option Nat × State :=
  let pair := c.op = opREDUCE && c.kind = 8 && c.k > 8
  match s.takeSlot p r e pair with
  | (none, s) => (none, s)
  | (some (a, b), s) =>
    let x : Ctx := {
      handle := a, mode := c.acc, kind := c.ctxKind 0, rnd := c.accRnd,
      outFmt := if c.op = opREDUCE then (c.out.map fun o => o.fmtWord.toNat % 16).getD 0 else 0, part := p.part, cls := p.cls, hop := p.hop,
      chained := pair, chain := if pair then b else 0, tag := p.tag, keyword := c.keyword p.seed row, tiles := c.tiles,
      dir := c.dir, nanRank := c.nanRank, k := c.k, owner := some (p.id, row), acc := Acc.fresh (c.akind 0) }
    let s := s.putCtx x
    (some a, if pair then s.putCtx { x with handle := b, chained := false, chain := 0, successor := true, acc := {} } else s)

/-- A companion of a RESIDENT split on engine e (R100). -/
def State.openPart (s : State) (p : Pkt) (c : Comp) (e row home phase : Nat) : Option Nat × State :=
  match s.takeSlot p e e false with
  | (none, s) => (none, s)
  | (some (a, _), s) =>
    (some a, s.putCtx {
      handle := a, mode := c.acc, kind := c.ctxKind phase, rnd := c.accRnd, outFmt := ((s.ctx home).map (·.outFmt)).getD 0,
      companion := true, chain := home, part := p.part,
      cls := p.cls, hop := p.hop, tag := p.tag,
      keyword := ((s.ctx home).map (·.keyword)).getD (c.keyword p.seed row), dir := c.dir, nanRank := c.nanRank, k := c.k,
      owner := if c.op = opCTX_FEED then none else some (p.id, row), acc := Acc.fresh (c.akind phase) })

/-- The part of a RESIDENT split to which a tile belongs (R100): its segment's number in the row, modulo m. -/
def Work.partOf (w : Work) (c : Comp) (tile : Nat) : Nat :=
  if c.resident then (tile / 32768) % max w.m.length 1 else 0

/-- The engine that holds a row's first segment, where its implicit context is opened (R84); else the engine at hand. -/
def State.rowEngine (s : State) (id row e : Nat) : Nat :=
  let first (g : Option Seg) : Bool := match g with
    | some g => g.pkt = id && g.row0 ≤ row && g.row = row && g.tile0 = 0
    | none => false
  ((s.engines.zipIdx.find? fun (x, _) => !x.fenced && (first x.run || first x.susp)).map (·.2)).getD e

/-- The row at hand has its place and its context; false while it must wait. -/
def State.beginRow (s : State) (e : Nat) (p : Pkt) (c : Comp) (row tile : Nat) : Bool × State :=
  let have? := s.rowSt p.id row
  let (ok, s) : Bool × State :=
    match have? with
    | some _ => (true, s)
    | none =>
      if c.usesCtx then
        match s.openRow p c e (s.rowEngine p.id row e) row with
        | (some h, s) =>
          (true, s.modWork p.id fun w => { w with rows := w.rows ++ [{ row := row, home := handleEngine h, handle := some h }] })
        | (none, s) => (false, s)
      else (true, s.modWork p.id fun w => { w with rows := w.rows ++ [{ row := row, home := e }] })
  if !ok then (false, s)
  else
    let r := (s.rowSt p.id row).getD { row := row, home := e }
    let j := (s.work p.id).partOf c tile
    if j = 0 || c.tiles ≤ 1 || r.parts.any (fun x => x.1 = j) then (true, s)
    else
      match s.openPart p c e row (r.handle.getD 0) r.phase with
      | (some h, s) => (true, s.modRow p.id row fun r => { r with parts := r.parts ++ [(j, h)] })
      | (none, s) => (false, s)

/-! ### Reading a tile -/

/-- Elements [j, j + n) of row r of an operand, as bits. -/
def State.readOperand (s : State) (src : Src) (t : TDesc) (r j n : Nat) : List Nat × Option Nat × State :=
  if t.esz = 0 then
    let (b, e, s) := s.readBytes src (t.addr r j) ((n + 7) / 8)
    ((List.range n).map fun i => b2n ((b.getD (i / 8) 0).getLsbD (i % 8)), e, s)
  else
    let (b, e, s) := s.readBytes src (t.addr r j) (n * t.esz)
    ((List.range n).map fun i => ofBytes ((b.drop (i * t.esz)).take t.esz), e, s)

/-- A byte as the source held it before the COPY wrote over it (07 R179). -/
def Pkt.shaded (p : Pkt) (a : Nat) (b : BitVec 8) : BitVec 8 :=
  match p.shadow.find? fun x => x.1 ≤ a && a < x.1 + x.2.length with
  | some x => x.2.getD (a - x.1) 0
  | none => b

/-- Elements of the primary input; those of a COPY as its source was before its first write. -/
def State.readSource (s : State) (src : Src) (c : Comp) (r j n : Nat) : List Nat × Option Nat × State :=
  match src.pkt.bind s.pkt with
  | some p =>
    if p.shadow = [] || c.inp.esz = 0 then s.readOperand src c.inp r j n
    else
      let a := c.inp.addr r j
      let (b, e, s) := s.readBytes src a (n * c.inp.esz)
      let b := b.mapIdx fun i x => p.shaded (a + i) x
      ((List.range n).map fun i => ofBytes ((b.drop (i * c.inp.esz)).take c.inp.esz), e, s)
  | none => s.readOperand src c.inp r j n

/-- An optional operand. -/
def State.readOpt (s : State) (src : Src) (t : Option TDesc) (use : Bool) (r j n : Nat) :
    Option (TDesc × List Nat) × Option Nat × State :=
  match t with
  | some t =>
    if use then
      let (b, e, s) := s.readOperand src t r j n
      (some (t, b), e, s)
    else (none, none, s)
  | none => (none, none, s)

def optVal (x : Option (TDesc × List Nat)) (i : Nat) : Option Val := x.map fun (t, b) => t.d.read (b.getD i 0)

/-- The elements of one tile in one pass: every operand that the pass needs (06 R132, R137). `idx0` is the row index of its
first element. -/
def State.readTile (s : State) (src : Src) (c : Comp) (row tile pass idx0 : Nat) : List Elem × Option Nat × State :=
  let j := tile * 1024
  let n := min 1024 (c.inp.len - j)
  let final := c.tiles ≤ 1 || pass ≥ c.phases
  let lastRed := c.tiles ≤ 1 || pass + 1 ≥ c.phases
  let (xb, e0, s) := s.readSource src c row j n
  let (msk, e1, s) := s.readOpt src c.mask true row j n
  let (bs, e2, s) := s.readOpt src c.bias true row j n
  let (g, e3, s) := s.readOpt src c.g lastRed row j n
  let (gm, e4, s) := s.readOpt src c.gamma lastRed row j n
  let (w, e5, s) := s.readOpt src c.second final row j n
  let err := [e0, e1, e2, e3, e4, e5].filterMap id
  let es := (xb.zipIdx).map fun (b, i) =>
    ({ j := idx0 + i, bits := b, x := c.inp.d.read b,
       keep := match msk with | some (_, m) => m.getD i 0 != 0 | none => true,
       bias := optVal bs i, g := (optVal g i).getD .zero, gamma := (optVal gm i).getD .one,
       w := (optVal w i).getD .zero } : Elem)
  (es, (match err with | [] => none | a :: t => some (t.foldl min a)), s)

/-- The elements of a whole row, read from tile k on, and the lowest faulting address. -/
def State.readRow (s : State) (src : Src) (c : Comp) (row : Nat) : Nat → Nat → List Elem × Option Nat × State
  | 0, _ => ([], none, s)
  | n + 1, k =>
    let (es, e, s) := s.readTile src c row k 0 (k * 1024)
    match e with
    | some a => (es, some a, s)
    | none =>
      let (fs, e, s) := s.readRow src c row n (k + 1)
      (es ++ fs, e, s)

/-- The statistics row read under STATS_IN, by its descriptor's DAZ (R37, R160). -/
def State.readStats (s : State) (src : Src) (c : Comp) (row : Nat) : List (BitVec 32) × Option Nat × State :=
  match c.stats with
  | some t =>
    if c.statsIn then
      let (b, e0, s) := s.readOperand src t row 0 2
      let st := b.map fun x => f32enc .rne (t.d.read x)
      if c.op = opSOFTMAX then
        let (es, e1, s) := s.readRow src c row c.tiles 0
        (c.statsFor st es, if e0.isSome then e0 else e1, s)
      else (st, e0, s)
    else ([], none, s)
  | none => ([], none, s)

/-! ### Outputs of a tile -/

def orFlags (l : List Flags) : Flags := l.foldl Flags.or {}

/-- Output bytes of one tile: the elements, x-hat, and with its first tile the row's statistics. -/
def Comp.outWrites (c : Comp) (key : Key) (row tile : Nat) (form : RowForm) (stats : List (BitVec 32)) (es : List Elem) :
    List (Nat × List (BitVec 8)) × Flags :=
  match c.out with
  | none => ([], {})
  | some o =>
    let r := es.map fun e => c.outElem o key form stats e
    let w0 := [(o.addr row (tile * 1024), elemBytes o.esz (r.map (·.1)))]
    let (w1, f1) : List (Nat × List (BitVec 8)) × Flags :=
      match c.xhat with
      | some x =>
        let q := es.map fun e => c.xhatElem x { key with mode := x.rnd } form stats e
        ([(x.addr row (tile * 1024), elemBytes x.esz (q.map (·.1)))], orFlags (q.map (·.2)))
      | none => ([], {})
    let w2 : List (Nat × List (BitVec 8)) :=
      match c.stats with
      | some t => if c.statsOut && tile = 0 then [(t.addr row 0, elemBytes 4 ((c.statsRow form stats).map (·.toNat)))] else []
      | none => []
    (w0 ++ w1 ++ w2, (orFlags (r.map (·.2))).or f1)

/-- The row REDUCE writes (R154, R176, R427): empty, short of k, bytes, flags. -/
def Comp.reduceWrites (c : Comp) (key : Key) (row : Nat) (x : Node) :
    Bool × Bool × List (Nat × List (BitVec 8)) × Flags :=
  let empty := if (c.akind 0).isRank then x.best = [] else x.n = 0 || (c.kind = 4 && x.m == negInf32)
  let short := c.kind = 8 && x.best.length < c.k
  match c.out with
  | none => (empty, short, [], {})
  | some o =>
    let (vs, is, f) := closeValues c.kind o.d key c.k empty x
    let w := [(o.addr row 0, elemBytes o.esz vs)] ++
      (match c.idx with | some t => [(t.addr row 0, elemBytes t.esz is)] | none => [])
    (empty, short, w, { f with emptyRow := empty })

/-- Every phase of a row of one tile, from the same elements (06 R137): final words, candidates, flags. -/
def Comp.oneTile (c : Comp) (key : Key) (es : List Elem) : Nat → Nat → List (BitVec 32) → Nat → Node → Flags →
    List (BitVec 32) × Nat × Node × Flags
  | 0, _, stats, n, x, fl => (stats, n, x, fl)
  | fuel + 1, p, stats, n, x, fl =>
    if p ≥ c.phases then (stats, n, x, fl)
    else
      let k := c.akind p
      let (t, f0) := c.tile p stats es
      let (a, f1) := (Acc.fresh k).absorb k c.acc key 0 t
      let (root, f2) := a.root k c.acc key
      let root := { root with n := t.n }
      c.oneTile key es fuel (p + 1) (c.finish p t.n root stats) t.n root (((fl.or f0).or f1).or f2)

/-! ### SEGMENT_DISPATCH (R66, R67, R69, R79, R196) -/

/-- The working state of a suspended segment moves between the banks (R89). -/
def Bank.swapMarks (b : Bank) : Bank := { b with wMark := b.tMark, tMark := b.wMark }

/-- A segment goes onto engine e. -/
def State.placeSeg (s : State) (e : Nat) (g : Seg) (w : Work) (suspend : Bool) : State :=
  let s := s.modWork g.pkt fun _ => { w with live := w.live + 1 }
  s.modEng e fun x =>
    { x with susp := if suspend then x.run else x.susp, run := some { g with pages := x.freeList.take 32 }, power := .active,
             since := s.mem.fills, banks := if suspend then x.banks.map Bank.swapMarks else x.banks }

/-- The suspended segment of engine e goes on: its working state is back in the working bank (R89). -/
def State.resumeSeg (s : State) (e : Nat) : State :=
  s.modEng e fun x => { x with run := x.susp, susp := none, since := s.mem.fills, banks := x.banks.map Bank.swapMarks }

def segmentDispatch (e : Nat) (s : State) : State :=
  let g := s.eng e
  match s.enginePart e with
  | none => s
  | some p =>
    if !s.running || g.fenced || g.stopping || g.power = .doze || g.power = .deep then s
    else
      let pick (urgentOnly : Bool) : Option (Comp × Seg × Work) :=
        (s.byClass p).findSome? fun q => if urgentOnly && q.cls != 0 then none else s.segFor e q
      let place (x : Comp × Seg × Work) (suspend : Bool) : State :=
        match s.makeRoom e 32 with
        | .free => s.placeSeg e x.2.1 x.2.2 suspend
        | .moving s => s
        | .no => s
      match g.run with
      | none =>
        match g.susp with
        | none => match pick false with
          | some x => place x false
          | none => s
        | some _ =>
          -- a suspended segment resumes unless another URGENT one waits
          match pick true with
          | some x => place x false
          | none => s.resumeSeg e
      | some r =>
        if r.urgent || g.susp.isSome || !(g.banks.all fun b => b.working.isNone && b.tail.isNone) then s
        else match pick true with
          | some x => place x true
          | none => s

/-! ### TILE_COMPLETE (R67, R85 to R90) -/

def Engine.bank (g : Engine) (c : Nat) : Bank := (g.banks.find? fun b => b.cluster = c).getD { cluster := c }

/-- Drain overlap is off: throughout DEBUG_OPEN (11 R315, R319), and while a suspended segment's state holds the Tailrace
bank (R89). -/
def State.noOverlap (s : State) (e : Nat) : Bool := s.mode = .debugOpen || (s.eng e).susp.isSome

/-- A completed tile: the banks swap where the Tailrace bank is empty, else it waits in the working bank (R88); without
overlap it drains from the bank it was accumulated in (R89, R319). `n` marks what the bank now holds. -/
def Bank.put (b : Bank) (t : TileOut) (noOverlap : Bool) (n : Nat) : Bank :=
  if noOverlap || b.tail.isSome then { b with working := some t, wMark := some n }
  else { b with tail := some t, tMark := some n, wMark := b.tMark }

/-- The bank that drains is empty; a tile that waits takes its place (R88). -/
def Bank.drained (b : Bank) : Bank :=
  if b.tail.isNone then { b with working := none }
  else if b.working.isNone then { b with tail := none }
  else { b with tail := b.working, working := none, tMark := b.wMark, wMark := b.tMark }

/-- The next tile of a cluster may complete: its working bank is empty, and without overlap the other one too. -/
def Bank.ready (b : Bank) (noOverlap : Bool) : Bool := b.working.isNone && !(noOverlap && b.tail.isSome)

def Engine.setBank (g : Engine) (b : Bank) : Engine := { g with banks := (g.banks.filter fun x => x.cluster != b.cluster) ++ [b] }

/-- The engine and part to which a tile's node goes (R90 to R94, R100): to a companion's engine, or the home context's. -/
def State.nodeHome (s : State) (p : Pkt) (c : Comp) (r : RowSt) (tile : Nat) : Nat × Nat :=
  let j := (s.work p.id).partOf c tile
  match r.parts.find? fun x => x.1 = j with
  | some (_, h) => (handleEngine h, j)
  | none => (r.home, 0)

/-- Tiles that cluster cl has run of the segment. -/
def Seg.ranOn (g : Seg) (cl : Nat) : Nat := ((g.perCl.find? fun x => x.1 = cl).map (·.2)).getD 0
def Seg.ran (g : Seg) (cl : Nat) : Seg := { g with perCl := (g.perCl.filter fun x => x.1 != cl) ++ [(cl, g.ranOn cl + 1)] }

/-- A node that the cluster formed waits for a pending-area entry: the cluster waits with it (R94). -/
def State.clusterWaits (s : State) (e cl : Nat) : Bool :=
  s.engines.any fun x => x.blocked.any fun m => m.eng = e && m.cluster = cl

/-- The next tile of the running segment completes on cluster cl. -/
def State.runTile (s : State) (e cl : Nat) (g : Seg) (p : Pkt) (c : Comp) : State :=
  match s.beginRow e p c g.row g.tile with
  | (false, s) => s
  | (true, s) =>
    let src : Src := { part := some p.part, eng := some e, pkt := some p.id, since := some (s.eng e).since }
    let r := (s.rowSt p.id g.row).getD { row := g.row, home := e }
    let pos := (if c.op = opCTX_FEED then p.pos else 0) + g.tile
    let (st, e1, s) := if r.stats = [] then s.readStats src c g.row else (r.stats, none, s)
    let (es, e2, s) := s.readTile src c g.row g.tile g.pass (if c.op = opCTX_FEED then pos * 1024 else g.tile * 1024)
    match [e1, e2].filterMap id with
    | a :: t => s.compFail p.id .eccUncorr (t.foldl min a)
    | [] =>
      let s := (s.modRow p.id g.row fun r => { r with stats := st }).draw
      let akey := s.accKey p c g.row
      let okey := s.outKey p c g.row
      let put (s : State) (t : TileOut) : State :=
        let quiet := s.noOverlap e
        s.modEng e fun x => { (x.setBank ((x.bank cl).put t quiet s.free)) with
          run := x.run.map fun g => (g.advance c).ran cl, since := s.mem.fills }
      if c.tiles ≤ 1 && c.op != opCTX_FEED then
        let (stats, n, root, f0) := c.oneTile akey es 3 0 st 0 {} {}
        if c.hasOut then
          let form := c.rowForm n stats
          let (ws, f1) := c.outWrites okey g.row 0 form stats es
          let fl := { (f0.or f1) with emptyRow := c.phases != 0 && form = .empty || c.op = opSOFTMAX && form = .empty }
          put s { pkt := p.id, row := g.row, tile := 0, pass := 0, last := true, writes := ws, flags := fl,
                  empty := fl.emptyRow, whole := true }
        else
          let (emp, short, ws, f1) := c.reduceWrites okey g.row root
          put s { pkt := p.id, row := g.row, tile := 0, pass := 0, last := true, writes := ws,
                  flags := { (f0.or f1) with emptyRow := emp }, empty := emp, short := short, whole := true }
      else if g.pass < c.phases then
        let (t, f) := c.tile g.pass st es
        let (home, part) := s.nodeHome p c r g.tile
        let s := s.modEng home fun x => { x with
          inbox := x.inbox ++
          [{ pkt := p.id, row := g.row, pos := pos, phase := g.pass, part := part, raw := t, flags := f, eng := e, cluster := cl }] }
        put (s.modRow p.id g.row fun r => { r with begun := r.begun + 1 })
          { pkt := p.id, row := g.row, tile := g.tile, pass := g.pass, last := false, writes := [], flags := f }
      else
        let form := c.rowForm r.cands st
        let (ws, f) := c.outWrites okey g.row g.tile form st es
        put s { pkt := p.id, row := g.row, tile := g.tile, pass := g.pass, last := true, writes := ws, flags := f }

def tileComplete (e cl : Nat) (s : State) : State :=
  let x := s.eng e
  match x.run, s.enginePart e with
  | some g, some pt =>
    match s.pkt g.pkt with
    | none => s
    | some p =>
      match s.compOf p with
      | none => s
      | some c =>
        if !s.running || x.fenced || g.left = 0 || !(x.bank cl).ready (s.noOverlap e) || s.clusterWaits e cl then s
        else if g.ranOn cl ≥ 256 * (if c.tiles > 64 then 1 else c.rowPasses) then s
        else if !g.urgent && x.susp.isNone && s.urgentFor e pt then s
        else if !(s.work p.id).rowReady g.row g.pass then s
        else s.runTile e cl g p c
  | _, _ => s

/-! ### Rows and writes -/

/-- A row is finished: its outputs are written and its implicit context is free (R84). -/
def State.rowDone (s : State) (id row e : Nat) (emp short : Bool) : State :=
  let s := match (s.rowSt id row).bind (·.handle) with
    | some h => (match s.ctx h with | some c => if c.owner.isSome then s.freeAll h else s | none => s)
    | none => s
  let s := s.modWork id fun w =>
    { w with
             rows := (w.rows.filter fun r => r.row != row), finished := w.finished + 1, empty := w.empty + b2n emp,
             short := w.short + b2n short }
  s.modEng e fun x =>
    { x with
        run := x.run.map fun g =>
        if g.pkt = id then { g with fin := g.fin + 1, emp := g.emp + b2n emp, shrt := g.shrt + b2n short } else g }

/-- The bytes of a drain reach L2. -/
def State.writeAll (s : State) (src : Src) : List (Nat × List (BitVec 8)) → Option Nat × State
  | [] => (none, s)
  | (a, b) :: t =>
    match s.writeBytes src a b with
    | (some x, s) => (some x, s)
    | (none, s) => s.writeAll src t

/-- Operands that the packet reads by segments; the statistics row is read whole. -/
def Comp.inputs (c : Comp) : List (TDesc × Bool) :=
  ([some c.inp, c.second, c.g, c.gamma, c.bias, c.mask].filterMap id).map (fun t => (t, false)) ++
    (match c.stats with | some t => if c.statsIn then [(t, true)] else [] | none => [])

/-- [a, a + n) meets one of `rows` rows of w bytes from b on. -/
def meetsRows (b stride w rows a n : Nat) : Bool :=
  -- the first row that ends above a
  let r := if a < b + w then 0 else if stride = 0 then rows else (a - b - w) / stride + 1
  r < rows && b + r * stride < a + n

/-- Bytes [a, a + n) lie in the segment's own input (R69). -/
def Seg.reads (g : Seg) (c : Comp) (a n : Nat) : Bool :=
  let long := c.tiles > 64
  let rows := if long then 1 else (g.count + max c.tiles 1 - 1) / max c.tiles 1
  c.inputs.any fun (t, whole) =>
    let j := if long && !whole then g.tile0 * 1024 else 0
    let w := if long && !whole then t.addr g.row0 (min t.len (j + g.count * 1024)) - t.addr g.row0 j else t.rowBytes
    meetsRows (t.addr g.row0 j) t.stride w rows a n

/-- Segments of the packet note that their own input is overwritten (R69). -/
def State.noteWrites (s : State) (id : Nat) (c : Comp) (ws : List (Nat × List (BitVec 8))) : State :=
  let note (g : Seg) : Seg := if g.pkt = id && ws.any (fun x => g.reads c x.1 x.2.length) then { g with wrote := true } else g
  { s with engines := s.engines.map fun x => { x with run := x.run.map note, susp := x.susp.map note } }

/-- A COPY keeps the source bytes that it is about to overwrite (07 R179). -/
def State.shade (s : State) (id : Nat) (c : Comp) (ws : List (Nat × List (BitVec 8))) : State :=
  if c.op != opCOPY then s
  else
    let hit := ws.filter fun x => meetsRows c.inp.base c.inp.stride c.inp.rowBytes c.inp.rows x.1 x.2.length
    let old := hit.map fun x => (x.1, (List.range x.2.length).map fun i => s.peekByte (x.1 + i))
    if hit = [] then s else s.modPkt id fun p => { p with shadow := p.shadow ++ old }

/-! ### The end of a phase and of a row (R84, R90 to R94, R100, R426) -/

/-- Every tile of the phase has been absorbed. -/
def State.phaseDone (s : State) (p : Pkt) (c : Comp) (r : RowSt) (h : Nat) : State :=
  let k := c.accKind r.phase
  let (f0, s) := s.joinParts p c r h k
  let s := (s.addFlags p.id f0).ctxFlags h f0
  if c.op = opCTX_FEED then
    (s.modWork p.id fun w => { w with rows := [], finished := 1 }).settle p.id
  else
    match s.ctx h with
    | none => s
    | some x =>
      let a := s.accOf x
      let (root, f1) := a.root k c.acc (s.ctxKey x)
      let s := (s.addFlags p.id f1).ctxFlags h f1
      let n := a.run.n
      let root := { root with n := n }
      if c.op = opREDUCE then
        let (emp, short, ws, f) := c.reduceWrites (s.outKey p c r.row) r.row root
        match s.writeAll { part := some p.part, eng := some (handleEngine h), pkt := some p.id } ws with
        | (some a, s) => s.compFail p.id .eccUncorr a
        | (none, s) =>
          (((s.noteWrites p.id c ws).addFlags p.id f).rowDone p.id r.row (handleEngine h) emp short).settle p.id
      else
        let s := s.modRow p.id r.row fun r =>
          { r with stats := c.finish r.phase n root r.stats, cands := n, phase := r.phase + 1, seen := 0, folded := [], begun := 0 }
        s.modCtx h fun x => { x with acc := Acc.fresh (c.akind (r.phase + 1)), kind := c.ctxKind (r.phase + 1) }

/-- A tile of the row is in a bank of some engine. -/
def State.inBank (s : State) (id row : Nat) : Bool :=
  s.engines.any fun x => x.banks.any fun b => [b.working, b.tail].any fun t =>
    match t with | some t => t.pkt = id && t.row = row | none => false

/-- The row's phase ends when its last tile is absorbed; a REDUCE closes its context when that tile has drained too (R84). -/
def State.tryPhase (s : State) (id row : Nat) : State :=
  match s.pkt id, s.rowSt id row with
  | some p, some r =>
    match s.compOf p with
    | some c =>
      if r.seen ≥ c.tiles && r.handle.isSome && !(c.op = opREDUCE && s.inBank id row) then
        s.phaseDone p c r (r.handle.getD 0)
      else s
    | none => s
  | _, _ => s

/-! ### TAILRACE_DRAIN_DONE (R88) -/

/-- The tile that drains: the Tailrace bank's, else, without overlap, the working bank's. -/
def Bank.drains (b : Bank) : Option TileOut := if b.tail.isSome then b.tail else b.working

def tailraceDrain (e cl : Nat) (s : State) : State :=
  let x := s.eng e
  match (x.bank cl).drains with
  | none => s
  | some t =>
    let s := s.modEng e fun x => { (x.setBank (x.bank cl).drained) with tilesDone := x.tilesDone + 1 }
    match s.pkt t.pkt with
    | none => s
    | some p =>
      match s.compOf p with
      | none => s
      | some c =>
        let src : Src := { part := some p.part, eng := some e, pkt := some p.id }
        match (s.shade p.id c t.writes).writeAll src t.writes with
        | (some a, s) => s.compFail p.id .eccUncorr a
        | (none, s) =>
          let s := (s.addFlags p.id t.flags).noteWrites p.id c t.writes
          let s := match (s.rowSt p.id t.row).bind (·.handle) with
            | some h => s.ctxFlags h t.flags
            | none => s
          let s := if t.writes = [] then s else s.modEng e fun x =>
            { x with run := x.run.map fun g => if g.pkt = p.id then { g with drained := g.drained + 1 } else g }
          let s :=
            if t.whole then s.rowDone p.id t.row e t.empty t.short
            else if t.last then
              let s := s.modRow p.id t.row fun r => { r with outs := r.outs + 1 }
              match s.rowSt p.id t.row with
              | some r =>
                if r.outs ≥ c.tiles then
                  let emp := c.rowForm r.cands r.stats == RowForm.empty && (c.phases != 0 || c.op = opSOFTMAX)
                  (s.addFlags p.id { emptyRow := emp }).rowDone p.id t.row e emp false
                else s
              | none => s
            else s.tryPhase p.id t.row
          s.settle p.id

/-! ### SEGMENT_END (R67, R123) -/

/-- A segment whose tiles are all drained ends; a suspended one resumes. -/
def segmentEnd (e : Nat) (s : State) : State :=
  let x := s.eng e
  match x.run with
  | some g =>
    if g.left = 0 && (x.banks.all fun b => (match b.tail with | some t => t.pkt != g.pkt | none => true) && b.working.isNone) then
      let s := s.resumeSeg e
      (s.modWork g.pkt fun w => { w with live := w.live - 1, done := w.done + 1 }).settle g.pkt
    else s
  | none => s

/-! ### CARRY_NODE_ARRIVAL (R90 to R94, R100, R426) -/

/-- Nodes of engine e's contexts in its pending area (R94). -/
def State.pendingUsed (s : State) (e : Nat) : Nat :=
  (s.ctxs.filter fun c => handleEngine c.handle = e).foldl (fun n c => n + c.acc.pending) 0

/-- The tile position that part j folds next (R66, R100): it has folded n of its segments' tiles. -/
def Work.nextTile (w : Work) (j n : Nat) : Nat := (n / 32768 * max w.m.length 1 + j) * 32768 + n % 32768

/-- The combine unit may take a result now: in a RESIDENT mode the next one of its part in ascending position (R90, R100), of
the oldest feed of its context (R81). What belongs to nothing is taken, and dropped. -/
def State.msgReady (s : State) (m : NodeMsg) : Bool :=
  match s.pkt m.pkt with
  | none => true
  | some p =>
    match s.compOf p, s.rowSt p.id m.row with
    | some c, some r =>
      !c.resident ||
        (m.pos = (if c.op = opCTX_FEED then p.pos else 0) + (s.work p.id).nextTile m.part (r.foldedOf m.part) &&
         (c.op != opCTX_FEED || ((s.ctx p.handle).map (·.feeds.head?)).getD none = some p.id))
    | _, _ => true

/-- The combine unit takes a result. -/
def State.absorbMsg (s : State) (e : Nat) (m : NodeMsg) : State :=
  let drop (s : State) : State := s.modEng e fun x => { x with inbox := x.inbox.erase m }
  match s.pkt m.pkt with
  | none => drop s
  | some p =>
    match s.compOf p, s.rowSt p.id m.row with
    | some c, some r =>
      let home := r.handle.getD 0
      let target := ((r.parts.find? fun x => x.1 = m.part).map (·.2)).getD home
      match s.ctx target with
      | none => drop s
      | some x =>
        let k := c.accKind m.phase
        match s.useRecord x with
        | .fault => drop (s.compFail p.id .memFault (s.overflowBase p.part))
        | .wait s => s
        | .ok s =>
          let x := (s.ctx target).getD x
          let old := s.accOf x
          let (a, f) := old.absorb k c.acc (s.ctxKey x) m.pos m.raw
          if a.pending > old.pending && s.pendingUsed e + a.pending > 2048 + old.pending then
            (drop s).modEng e fun x => { x with blocked := x.blocked ++ [m] }
          else
            let s := ((drop s).setAcc target a).draw.modCtx target fun x => { x with count := x.count + m.raw.n }
            let fl := f.or m.flags
            let s := ((s.addFlags p.id fl).ctxFlags target fl).ctxFlags home fl
            let s := if target = home then s else s.modCtx home fun x => { x with count := x.count + m.raw.n }
            (s.modRow p.id m.row fun r => { r.fold m.part with seen := r.seen + 1 }).tryPhase p.id m.row
    | _, _ => drop s

def carryNode (e : Nat) (s : State) : State :=
  match (s.eng e).inbox.find? s.msgReady with
  | some m => if s.running then s.absorbMsg e m else s
  | none => s

/-- PENDING_ENTRY_FREED: a waiting node goes back to the combine unit when the pending area has room (R94). -/
def pendingFreed (e : Nat) (s : State) : State :=
  match (s.eng e).blocked with
  | m :: t => if s.pendingUsed e < 2048 then s.modEng e fun x => { x with blocked := t, inbox := m :: x.inbox } else s
  | [] => s

/-! ### Bodies of the compute opcodes -/

/-- A compute packet begins (R66). -/
def State.startWork (s : State) (p : Pkt) : State :=
  s.modPkt p.id fun q => { q with work := some { m := s.unfenced p.part } }

/-- The shared shape of the compute opcodes. -/
def compBody (op : Nat) (armed : State → Bool) : OpBody := {
  sel := selOp op
  units := fun p => if op = opSFN ∨ op = opEWISE ∨ op = opCOPY then 2 else rowUnits p
  dec := fun s p => s.decodeComp p (armed s)
  body := fun s p => s.startWork p }

end Sys2Proof.Machine
end

