-- ==== Sys2Proof/Machine/Clear.lean ====
section
/-!
DEFINITION. Emptying a partition (11 Table EPO-1 steps 2 to 5), fencing an engine (03 R69, 04 R80) and returning it.
-/
namespace Sys2Proof.Machine

/-- An engine without contexts, pages, banks, L1 lines and messages. -/
def Engine.emptied (g : Engine) : Engine :=
  { g with run := none, susp := none, banks := [], inbox := [], blocked := [], pages := [], move := none,
           l1 := [], fills := [], notices := [], binv := [], answers := [] }

/-- Recording of a replay ends (09 R266). -/
def State.endRecording (s : State) : State := { s with replay := { s.replay with armed := none } }

/-- The read-only ranges in force from an epoch fence on (08 R202). -/
def Part.latch (q : Part) : Part :=
  { q with roLatched := ((q.roBase.zip q.roSize).filter fun x => x.2 != 0).map fun x => (x.1.toNat, x.2.toNat) }

/-- Steps 2 to 5 of Table EPO-1. Fenced engines are left as they are (11 R312 Edges). -/
def State.emptyPart (s : State) (p : Nat) : State :=
  let mine : List Nat := s.unfenced p
  let s : State := { s with
    ctxs := s.fencedCtxs p,
    engines := s.engines.mapIdx fun e g => if mine.contains e then g.emptied else g }
  let s := s.modPart p fun q => { q.latch with frames := [], accesses := 0, misses := 0 }
  let s := s.walk (fun l => l.owner = p) true
  let s := s.drainWq fun w => s.granuleOwner (w.sec * 32) = p
  match s.replay.armed with
  | some (_, _, q) => if q = p then s.endRecording else s
  | none => s

/-! ### Fencing an engine -/

/-- A packet holds a context on engine e, or feeds one there. -/
def State.holdsCtxOn (s : State) (p : Pkt) (e : Nat) : Bool :=
  s.ctxs.any fun c => handleEngine c.handle = e &&
    ((match c.owner with | some (i, _) => i = p.id | none => false) ||
     (p.op = opCTX_FEED && p.stage = .running && (c.handle = p.handle || (c.companion && c.chain = p.handle))))

/-- A segment leaves fenced engine e: it ends its packet (R69), or the rest of it goes to another engine. The folds of a feed,
and of a reduction whose context lies elsewhere, stay: those segments go on where they stood. -/
def State.dropSeg (s : State) (e : Nat) (g : Seg) : State :=
  match s.pkt g.pkt with
  | none => s
  | some p =>
    match s.compOf p with
    | none => s
    | some c =>
      let s := s.modPkt p.id fun q => q.unwait e
      if g.wrote then s.compFail p.id .engineFenced 0
      else if c.op = opCTX_FEED || (c.tiles > 64 && g.pass < c.phases) then
        (s.modWork p.id fun w =>
          { w with live := w.live - 1,
                   back := if g.left = 0 then w.back else w.back ++ [(g.row, g.tile, g.left, g.pass, g.k)] }).settle p.id
      else
        -- the whole segment runs again: its inputs are intact
        let rows := if c.tiles > 64 then 1 else (g.count + max c.tiles 1 - 1) / max c.tiles 1
        s.modWork p.id fun w => { w with
          live := w.live - 1, finished := w.finished - g.fin, empty := w.empty - g.emp, short := w.short - g.shrt,
          rows := (if c.tiles > 64 then w.rows.map fun r => if r.row = g.row0 then { r with outs := r.outs - g.drained } else r
            else w.rows.filter fun r => !(g.row0 ≤ r.row && r.row < g.row0 + rows)),
          back := w.back ++ [(g.row0, g.tile0, g.count, g.pass0, g.k)] }

/-- Engine e fences (R22, R69, R80; 13 R369; 14 Table REG-16): its contexts are lost, companions of them go, homes of its
companions are lost; packets that held a context there end, and their implicit contexts go with them (DEDUCED, log 115); other
segments go back. -/
def State.fenceEngine (s : State) (e cause : Nat) : State :=
  if (s.eng e).fenced then s
  else
    let g := s.eng e
    let segs := [g.run, g.susp].filterMap id
    let homes := ((s.ctxs.filter fun c => handleEngine c.handle = e && c.companion).map (·.chain))
    let hit := (s.pkts.filter fun p => p.stage = .running && (s.holdsCtxOn p e ||
      (p.op = opCTX_FEED && homes.contains p.handle))).map (·.id)
    let s := g.pages.foldl (fun s r => match r.at_ with
      | .frame f => s.modPart r.part fun q => { q with frames := q.frames.filter fun x => x != f }
      | .resident _ => s) s
    let s := s.modEng e fun x => { x.emptied with
      fenced := true, cause := cause, power := .doze, stopping := false,
      banks := x.banks.map fun b => { b with working := none, tail := none } }
    let s := hit.foldl (fun s i => s.compFail i .engineFenced 0) s
    let s := segs.foldl (fun s x => match s.pkt x.pkt with
      | some p => if p.stage = .running then s.dropSeg e x else s
      | none => s) s
    -- what is left on e is lost
    let orphans := ((s.ctxs.filter fun c => c.companion && handleEngine c.handle != e &&
      (handleEngine c.chain = e || homes.contains c.chain)).map (·.handle))
    let s := orphans.foldl State.freeCtx s
    let lose (c : Ctx) : Ctx :=
      if handleEngine c.handle = e then { c with lost := true, record := none }
      else if homes.contains c.handle then { c with lost := true } else c
    let s : State := { s with ctxs := s.ctxs.map lose }
    -- rows whose last tile was in a bank of e have nothing left to drain
    let s := (s.pkts.filter fun p => p.stage = .running).foldl (fun s p =>
      (s.work p.id).rows.foldl (fun s r => s.tryPhase p.id r.row) s) s
    match s.enginePart e with
    | some p =>
      if s.unfenced p = [] then
        (s.pkts.filter fun q => q.part = p && ((q.stage = .running && q.work.isSome) || (q.stage = .decoded && q.wait = .ctx))).foldl
          (fun s q => s.compFail q.id .engineFenced 0) s
      else s
    | none => s

/-! ### DOZE of a half (12 R332, R333, Table PWR-4) -/

def halfOf (e : Nat) : Nat := e / 4

/-- Half `h` dozes: 0 is West. -/
def State.dozes (s : State) (h : Nat) : Bool := if h = 0 then s.pwr.westDoze else s.pwr.eastDoze

def State.setDoze (s : State) (h : Nat) (v : Bool) : State :=
  { s with pwr := if h = 0 then { s.pwr with westDoze := v } else { s.pwr with eastDoze := v } }

/-- A dozing half wakes; a standing DEEP grant keeps both halves in DOZE (R334). -/
def State.wakeHalf (s : State) (h : Nat) : State :=
  if s.dozes h && !s.pwr.deepGrant then
    let t := s.setDoze h false
    let wake (e : Nat) (g : Engine) : Engine :=
      if halfOf e = h && !g.fenced && (t.enginePart e).isSome then { g with power := .active } else g
    let t : State := { t with engines := t.engines.mapIdx wake }
    t.modMem fun m => { m with selfRefresh := m.selfRefresh.mapIdx fun k v => if k / 2 = h then false else v }
  else s

/-- The halves of the engines in a mask wake. -/
def State.wakeFor (s : State) (mask : Nat) : State :=
  let s := if mask % 16 != 0 then s.wakeHalf 0 else s
  if mask / 16 % 16 != 0 then s.wakeHalf 1 else s

/-- Power of an engine: one in no partition stays gated as in DOZE (11 R305), as does a fenced one or one of a dozing half. -/
def State.gateEngines (s : State) : State :=
  { s with engines := s.engines.mapIdx fun e g =>
      if g.fenced || (s.enginePart e).isNone || s.dozes (halfOf e) then { g with power := .doze }
      else if g.power = .doze then { g with power := .idle } else g }

/-- An engine returns to service: its lost slots are FREE (R80). -/
def State.returnEngine (s : State) (e : Nat) : State :=
  let s : State := { s with ctxs := s.ctxs.filter fun c => !(handleEngine c.handle = e && c.lost) }
  (s.modEng e fun g => { g with fenced := false, passed := true, cause := 0 }).gateEngines

/-! ### The command of an opcode -/

/-- Every opcode's meaning: Miller works on the front packet of Hopper h. -/
def State.onHopper (s : State) (h : Nat) (o : OpBody) : Host.Outcome State Fault Refusal := noted (h < 256) (s.runPacket h o)

/-- An unused reservation check: every dword from 2 on but those listed. -/
def fullOffs (p : Pkt) (allow : List (Nat × Nat)) : List Off := rsvAll p 2 16 allow

end Sys2Proof.Machine
end

