-- ==== Sys2Proof/Machine/Manifest.lean ====
section
/-!
DEFINITION. The herd manifest (10 Tables HRD-5 and HRD-6, R286, R287), herd IDs and devices, routes (R279), members.
-/
namespace Sys2Proof.Machine

/-! ### Fields -/

def byteAt (b : List (BitVec 8)) (o n : Nat) : Nat := ofBytes ((b.drop o).take n)

/-- An entry of 32 bytes. -/
def entryOf (b : List (BitVec 8)) : Entry :=
  { serial := BitVec.ofNat 64 (byteAt b 0 8), id := byteAt b 8 1, spare := byteAt b 9 1 != 0, twin := byteAt b 10 1,
    replica := byteAt b 11 1, nbr := [byteAt b 12 1, byteAt b 13 1, byteAt b 14 1], rowBase := byteAt b 16 8 }

def entriesOf (m : List (BitVec 8)) : List Entry :=
  (List.range (byteAt m 1 1)).map fun i => entryOf ((m.drop (64 + 32 * i)).take 32)

def mfFw (m : List (BitVec 8)) : Nat := byteAt m 4 4
def mfHash (m : List (BitVec 8)) : Nat := byteAt m 8 8
def mfPolicy (m : List (BitVec 8)) : Nat := byteAt m 0x10 4
def mfSr (m : List (BitVec 8)) : Nat := byteAt m 0x14 1
def mfTree (m : List (BitVec 8)) : Nat := byteAt m 0x15 1
def mfTile (m : List (BitVec 8)) : Nat := byteAt m 0x16 1
def mfShape (m : List (BitVec 8)) : Nat := byteAt m 0x17 1
def mfKeyLo (m : List (BitVec 8)) : Nat := byteAt m 0x18 8
def mfKeyHi (m : List (BitVec 8)) : Nat := byteAt m 0x20 8

def findEntry (es : List Entry) (x : Nat) : Option Entry := es.find? fun e => e.id = x

/-! ### Well formed (R286) -/

/-- Device at the far end of port p of e. -/
def Entry.far (e : Entry) (p : Nat) : Nat := if p = 0 then e.twin else e.nbr.getD (p - 1) 0xFF

/-- The port at the far end of port p: 1 meets 2, every other port its own number (R277, R278). -/
def farPortOf (p : Nat) : Nat := if p = 1 then 2 else if p = 2 then 1 else p

/-- A listed link is listed at both ends. -/
def linkMutual (es : List Entry) (e : Entry) (p : Nat) : Bool :=
  let y := e.far p
  y = 0xFF || match findEntry es y with
    | some d => y != e.id && d.far (farPortOf p) = e.id
    | none => false

/-- The device n links further along port 1. -/
def along (es : List Entry) : Nat → Nat → Nat
  | 0, x => x
  | n + 1, x => match findEntry es x with | some e => along es n (e.far 1) | none => 0xFF

/-- Following port 1 from x comes back to it after exactly n devices, or meets an unlisted link. -/
def ringOf (es : List Entry) (n x : Nat) : Bool :=
  (List.range n).all fun k => k = 0 || along es k x != x

def ringClosed (es : List Entry) (n x : Nat) : Bool := ringOf es n x && (along es n x = x || along es n x = 0xFF)

/-- Lower twin of a pair. -/
def Entry.low (e : Entry) : Bool := e.id < e.twin

def torusOk (m : List (BitVec 8)) (es : List Entry) : Bool :=
  let x := byteAt m 3 1 % 16
  let y := byteAt m 3 1 / 16
  let twinOf (d : Nat) : Nat := match findEntry es d with | some e => e.twin | none => 0xFF
  2 ≤ x && x ≤ 8 && 2 ≤ y && y ≤ 8 && x * y ≤ 32 && es.length = 2 * x * y &&
  es.all fun e =>
    ([1, 2].all fun p => e.far p = 0xFF || (match findEntry es (e.far p) with | some d => d.low = e.low | none => false)) &&
    ringClosed es (if e.low then x else y) e.id &&
    -- one step right then down meets one step down then right
    (!e.low ||
      (let a := twinOf (along es 1 (twinOf (along es 1 e.id)))
       let b := along es 1 (twinOf (along es 1 (twinOf e.id)))
       a == 0xFF || b == 0xFF || a == b))

/-- The manifest is well formed for MEMBERS (R286), with the legal values of Table HRD-5 (log 63). -/
def manifestOk (m : List (BitVec 8)) (members : Nat) : Bool :=
  let es := entriesOf m
  let ids := es.map (·.id)
  let mem := es.filter fun e => !e.spare
  let bases := mem.map (·.rowBase)
  byteAt m 0 1 = 1 && 1 ≤ es.length && es.length ≤ 64 && byteAt m 2 1 ≤ 1 &&
  ids.all (fun i => i < 64 && ids.count i = 1) && mem.length = members &&
  es.all (fun e => match findEntry es e.twin with | some d => e.twin != e.id && d.twin = e.id | none => false) &&
  es.all (fun e => [1, 2, 3].all fun p => linkMutual es e p) &&
  (if byteAt m 2 1 = 1 then torusOk m es else es.all fun e => ringOf es es.length e.id) &&
  bases.all fun b => b % 64 = 0 && b < 2 ^ 40 && bases.count b = 1

/-- CONFIG_HASH (R287). -/
def State.configHash (s : State) : BitVec 64 :=
  [s.regions.stashSize, s.regions.replaySize, s.regions.paramSize, b2n s.regions.ckptBase.isSome,
   s.herd.waitLimit * 1000, s.glb.ctxWaitLimit * 1000].foldl (fun d w => mix64 (d ^^^ BitVec.ofNat 64 w)) 0

/-- PART_SHAPE of a partition: engines mapped, placement (Table HRD-5). -/
def State.partShape (s : State) (p : Nat) : BitVec 8 :=
  BitVec.ofNat 8 ((s.partEngines p).length + 16 * b2n (s.part p).spread)

/-! ### Herd IDs and devices (R299) -/

/-- The device that answers for herd ID x. -/
def Herd.deviceOf (hd : Herd) (x : Nat) : Nat :=
  let d := hd.spareMap.getD x 0xFF
  if d = 0xFF then x else d

/-- The herd ID a device answers to. -/
def Herd.idOf (hd : Herd) (d : Nat) : Nat := ((List.range 64).find? fun x => hd.spareMap.getD x 0xFF = d).getD d

def Herd.isLost (hd : Herd) (d : Nat) : Bool := hd.lost.getLsbD d

/-- LOST_MASK (14 R390): lost herd IDs; a spare ID that has retired is none of them. -/
def Herd.lostMask (hd : Herd) : BitVec 64 :=
  hd.retired.foldl (fun m x => m &&& ~~~ BitVec.ofNat 64 (2 ^ x)) hd.lost

/-- A herd ID has a device that is not lost. -/
def Herd.present (hd : Herd) (x : Nat) : Bool := !hd.isLost (hd.deviceOf x) && !hd.absent.contains (hd.deviceOf x)

/-- Member herd IDs, rising. -/
def Herd.members (hd : Herd) : List Nat :=
  (List.range 64).filter fun x => match findEntry hd.entries x with | some e => !e.spare | none => false

/-- Members whose device is not lost. -/
def Herd.live (hd : Herd) : List Nat := hd.members.filter hd.present

/-- Entry of a herd ID as the manifest gives it: rank, ROW_BASE and REPLICA stay with the ID (R299). -/
def Herd.entry (hd : Herd) (x : Nat) : Option Entry := findEntry hd.entries x

/-- Herd ID that the twin on the same tray answers to. -/
def Herd.pairId (hd : Herd) : Nat := match hd.entry hd.device with | some e => hd.idOf e.twin | none => 0xFF

/-- Herd ID of the twin, or of the logical twin after a takeover (R300). -/
def Herd.twinId (hd : Herd) : Nat := hd.logicalTwin.getD hd.pairId

/-- The herd that governs routes: the formed one, or the one that forms. -/
def Herd.links (hd : Herd) : List Entry :=
  if hd.formed then hd.entries else match hd.forming with | some f => entriesOf f.bytes | none => []

def Herd.own (hd : Herd) : Nat :=
  if hd.formed then hd.device else match hd.forming with | some f => f.self | none => 0xFF

/-! ### Routes (R279) -/

/-- Devices one link away over links both of whose ends are not lost. -/
def Herd.nextTo (hd : Herd) (es : List Entry) (own : Nat) (downPorts : List Nat) (d : Nat) : List (Nat × Nat) :=
  match findEntry es d with
  | none => []
  | some e => (List.range 4).filterMap fun p =>
      let y := e.far p
      let r := farPortOf p
      if y = 0xFF || hd.isLost y || (d = own && downPorts.contains p) || (y = own && downPorts.contains r) ||
        (findEntry es y).isNone then none
      else some (p, y)

/-- Devices within n links of a set. -/
def Herd.spread (hd : Herd) (es : List Entry) (own : Nat) (dp : List Nat) : Nat → List Nat → List Nat
  | 0, ds => ds
  | n + 1, ds =>
    let more := (ds.flatMap fun d => (hd.nextTo es own dp d).map (·.2)).eraseDups
    hd.spread es own dp n (ds ++ more.filter fun y => !ds.contains y)

/-- Links of a shortest path between two devices, at most 32. -/
def Herd.dist (hd : Herd) (es : List Entry) (own : Nat) (dp : List Nat) (a b : Nat) : Option Nat :=
  (List.range 33).find? fun n => (hd.spread es own dp n [a]).contains b

def portUp (k : Port) : Bool := k.state ≥ 2

/-- The port towards herd ID x: a shortest path, then the lower next-hop herd ID, then the lower port number. -/
def State.route (s : State) (x : Nat) : Option Nat :=
  let hd := s.herd
  let es := hd.links
  let own := hd.own
  let dp := (List.range 4).filter fun p => (s.ports.getD p {}).state = 0
  let goal := hd.deviceOf x
  if goal = own then none
  else
    let opts := (hd.nextTo es own dp own).filterMap fun (p, y) =>
      (hd.dist es own dp y goal).bind fun n => if n ≤ 31 then some (n, hd.idOf y, p) else none
    let best := opts.foldl (fun acc o => match acc with
      | some b => if o.1 < b.1 ∨ (o.1 = b.1 ∧ (o.2.1 < b.2.1 ∨ (o.2.1 = b.2.1 ∧ o.2.2 < b.2.2))) then some o else some b
      | none => some o) none
    best.map (·.2.2)

end Sys2Proof.Machine
end

