-- ==== Sys2Proof/Machine/Link.lean ====
section
/-!
DEFINITION. The Gynis Link of one device: flits, credits, go-back-N, training (10 R269 to R281). Messages are kept by name:
Table HRD-1 gives no values of MSG and no layout of a payload (log 60).
-/
namespace Sys2Proof.Machine

def State.modPort (s : State) (p : Nat) (f : Port → Port) : State := { s with ports := s.ports.modify p f }
def State.port (s : State) (p : Nat) : Port := s.ports.getD p {}

/-! ### Sending (R270, R272, R273) -/

/-- CRC-32 of IEEE 802.3, bit by bit. -/
def crcBits : Nat → BitVec 32 → BitVec 32
  | 0, c => c
  | n + 1, c => crcBits n (if c.getLsbD 0 then (c >>> 1) ^^^ 0xEDB88320#32 else c >>> 1)

def crc32 (b : List (BitVec 8)) : BitVec 32 :=
  ~~~ (b.foldl (fun c x => crcBits 8 (c ^^^ x.setWidth 32)) (BitVec.allOnes 32))

/-- The header fields of a flit that its message gives (Table HRD-1). -/
structure FlitHdr where
  ty : Nat := 0
  vc : Nat := 0
  seq : Nat := 0
  dest : Nat := 0
  src : Nat := 0
  hops : Nat := 0
  msg : Nat := 0
  len : Nat := 0
  stream : Nat := 0
  offset : Nat := 0

/-- The 256 bytes of a flit (Table HRD-1). -/
def FlitHdr.wire (h : FlitHdr) (ack : Nat) (nak : Bool) (cvc freed : Nat) (pay : List (BitVec 8)) : List (BitVec 8) :=
  let b := leBytes 1 h.ty ++ leBytes 1 h.vc ++ leBytes 2 h.seq ++ leBytes 2 (ack + 4096 * b2n nak) ++
    leBytes 2 (cvc + 4 * freed) ++ leBytes 1 h.dest ++ leBytes 1 h.src ++ leBytes 1 h.hops ++ leBytes 1 h.msg ++
    leBytes 2 h.len ++ leBytes 2 0 ++ leBytes 8 h.stream ++ leBytes 8 h.offset ++ pay ++ List.replicate (220 - pay.length) 0
  b ++ leBytes 4 (crc32 b).toNat

/-- Payload of a message: the bytes of a chunk, or its operands as words (log 60). -/
def Msg.payload (m : Msg) : List (BitVec 8) :=
  if m.vc > 0 && m.bytes != [] then m.bytes else m.args.flatMap (leBytes 8) ++ m.bytes

/-- A message's pieces of at most 220 bytes. -/
def Msg.pieces (m : Msg) : Nat := match m.raw with | some _ => 1 | none => max 1 ((m.payload.length + 219) / 220)

def Msg.piece (m : Msg) (i : Nat) : List (BitVec 8) :=
  match m.raw with
  | some fl => (fl.drop 32).take 220
  | none => (m.payload.drop (220 * i)).take 220

/-- Header of piece i as device `src` sends it; a flit passed on keeps its own, one hop further (R279). -/
def Msg.hdr (m : Msg) (src i : Nat) : FlitHdr :=
  match m.raw with
  | some fl => { ty := byteAt fl 0 1, vc := m.vc, dest := m.dest, src := byteAt fl 9 1, hops := byteAt fl 10 1 + 1,
                 msg := byteAt fl 11 1, len := byteAt fl 12 2, stream := byteAt fl 16 8, offset := byteAt fl 24 8 }
  | none => { ty := if m.vc = 0 then 2 else 1, vc := m.vc, dest := m.dest, src := src, hops := 0,
              msg := (Config.msgCode m.name).toNat, len := max 1 (m.piece i).length,
              stream := (Config.streamId m.name m.args).toNat, offset := 220 * i }

/-- SRC of this device's flits: 0xFF before formation. -/
def State.srcId (s : State) : Nat := if s.herd.formed then s.herd.self else 0xFF

/-- A numbered flit on the wire: it acknowledges what its port has accepted. -/
def State.flitOut (s : State) (p : Nat) (f : Flit) : OutEv :=
  let b := f.msg.piece f.piece
  .flit p f.seq f.msg.vc f.msg.dest f.msg.name f.msg.args b f.piece
    ({ f.msg.hdr s.srcId f.piece with seq := f.seq }.wire (((s.port p).expected + 4095) % 4096) false 0 0 b)

/-- Operation and chunk a VC_2 flit belongs to, and whether it is the chunk's last: every other piece of a chunk is full. -/
def Msg.chunkId (m : Msg) : String × List Nat :=
  match m.raw with
  | some fl => ("FORWARD", [byteAt fl 9 1, byteAt fl 16 8])
  | none => (m.name, m.args)
def Msg.lastPiece (m : Msg) (i : Nat) : Bool :=
  match m.raw with
  | some fl => byteAt fl 12 2 < 220
  | none => i + 1 = m.pieces

/-- One piece goes out as the next numbered flit; the last 256 are kept. -/
def State.putFlit (s : State) (p : Nat) (m : Msg) (piece : Nat) : State :=
  let k := s.port p
  let f : Flit := { seq := k.next, msg := m, piece := piece }
  (s.emit (s.flitOut p f)).modPort p fun k =>
    { k with next := (k.next + 1) % 4096, kept := (k.kept ++ [f]).drop (k.kept.length - 255),
             credits := k.credits.modify m.vc fun c => c - 1,
             chunk := if m.vc < 2 then k.chunk else if m.lastPiece piece then none else some m.chunkId,
             share := if m.vc < 2 || k.chunk.isSome then k.share else k.waiting.any fun x => x.1.vc = 1 }

/-- VC_2 pieces in the order in which they may go: a chunk begun is finished before another begins (R274). -/
def chunkOrder : Nat → Option (String × List Nat) → List (Msg × Nat) → List (Msg × Nat)
  | 0, _, _ => []
  | n + 1, cur, ws =>
    match (match cur with | some c => ws.find? fun x => x.1.chunkId = c | none => ws.head?) with
    | none => []
    | some x => x :: chunkOrder n (if x.1.lastPiece x.2 then none else some x.1.chunkId) (ws.erase x)

/-- Waiting pieces go while credits last, VC_0 first (R273, R274). -/
def State.pump (s : State) (p : Nat) : State :=
  if !portUp (s.port p) then s
  else
    let w := (s.port p).waiting
    let bulk := w.filter fun x => x.1.vc > 1
    let turn := chunkOrder bulk.length (s.port p).chunk bulk
    let order := (w.filter fun x => x.1.vc = 0) ++ (w.filter fun x => x.1.vc = 1) ++ turn
    let s := s.modPort p fun k => { k with waiting := [] }
    (order.foldl (fun s x =>
      if (s.port p).credits.getD x.1.vc 0 > 0 then s.putFlit p x.1 x.2
      else s.modPort p fun k => { k with waiting := k.waiting ++ [x] }) s).modPort p fun k =>
        let left := k.waiting ++ turn.foldl List.erase bulk
        { k with waiting := left, share := k.share && left.any fun x => x.1.vc = 1 }

/-- A message leaves by a port, unless the port is DOWN. -/
def State.sendPort (s : State) (p : Nat) (m : Msg) : State :=
  if (s.port p).state = 0 then s
  else (s.modPort p fun k => { k with waiting := k.waiting ++ (List.range m.pieces).map fun i => (m, i) }).pump p

/-- A message to a herd ID by its route; without a route it is not sent (R279). -/
def State.send (s : State) (vc x : Nat) (name : String) (args : List Nat) (bytes : List (BitVec 8) := []) : State :=
  match s.route x with
  | some p => s.sendPort p { vc := vc, dest := x, name := name, args := args, bytes := bytes }
  | none => s

/-- A message to the twin: over port 0, or by route to the logical twin (R300). -/
def State.sendTwin (s : State) (vc : Nat) (name : String) (args : List Nat) (bytes : List (BitVec 8) := []) : State :=
  if s.herd.formed && s.herd.logicalTwin.isSome then s.send vc s.herd.twinId name args bytes
  else s.sendPort 0 { vc := vc, name := name, args := args, bytes := bytes }

/-- A message to each of these herd IDs but this device's own. -/
def State.sendAll (s : State) (vc : Nat) (xs : List Nat) (name : String) (args : List Nat) (bytes : List (BitVec 8) := []) :
    State :=
  (xs.filter fun x => x != s.herd.self).foldl (fun s x => s.send vc x name args bytes) s

/-! ### The verdict on the twin (R283, Table HRD-4) -/

/-- A port's event bits rise and interrupt (14 R391). -/
def State.herdEvent (s : State) (i : Nat) : State :=
  let rising := !s.herd.event.getLsbD i
  let s := { s with herd := { s.herd with event := s.herd.event ||| BitVec.ofNat 7 (2 ^ i) } }
  if rising && s.herd.eventIrqEn then s.msixSend 0 s.herd.eventVec else s

/-- The heartbeat is judged absent (R281): watched only once it has been armed. -/
def State.hbAbsent (s : State) : Bool := s.pwr.hbArmed && !s.pins.hbIn

def State.twinLost (s : State) : Bool := s.pins.failIn || (s.hbAbsent && !portUp (s.port 0))

/-! ### Receiving (R272, R273, R275) -/

/-- a comes at or before b in the order of sequence numbers. -/
def seqLe (a b : Nat) : Bool := (b + 4096 - a) % 4096 < 2048

/-- Acknowledged flits leave the kept list. -/
def Port.acked (k : Port) (ack : Nat) : Port :=
  let rest := k.kept.filter fun f => !seqLe f.seq ack
  { k with kept := rest, resends := if rest.length < k.kept.length then 0 else k.resends }

/-- Every kept flit is sent again, oldest first. -/
def State.resend (s : State) (p : Nat) : State :=
  let k := s.port p
  if k.kept = [] then s
  else ((k.kept.foldl (fun s f => s.emit (s.flitOut p f)) s)).modPort p fun k => { k with resends := k.resends + 1 }

/-- A NAK names the last flit accepted (R272). -/
def State.takeNak (s : State) (p ack : Nat) : State := (s.modPort p fun k => k.acked ack).resend p

/-- A NULL flit that carries ACK, with NAK or a freed buffer. -/
def State.answer (s : State) (p : Nat) (nak : Bool) (vc credit : Nat) : State :=
  let ack := ((s.port p).expected + 4095) % 4096
  s.emit (.null p ack nak vc credit (({} : FlitHdr).wire ack nak vc credit []))

/-- A flit not addressed to this device is passed on (R279). -/
def State.passOn (s : State) (fl : List (BitVec 8)) : State :=
  let dest := byteAt fl 8 1
  match s.route dest with
  | some q => s.sendPort q { vc := byteAt fl 1 1 % 4, dest := dest, name := "FORWARD", raw := some fl }
  | none => s

/-- Herd ID this device takes flits for: while a herd forms, the one it forms with. -/
def Herd.answersTo (hd : Herd) : Option Nat := if hd.formed then some hd.self else hd.forming.map (·.self)

/-- FLIT_RECEIVE: what the receiver does with one flit. -/
def flitReceive (p : Nat) (fl : List (BitVec 8)) (s : State) : State :=
  if !portUp (s.port p) then s
  else if fl.length != 256 || crc32 (fl.take 252) != BitVec.ofNat 32 (byteAt fl 252 4) || byteAt fl 1 1 % 4 = 3 then
    s.modPort p fun k => { k with crcCnt := k.crcCnt + 1 }
  else
    let ty := byteAt fl 0 1
    let vc := byteAt fl 1 1 % 4
    let seq := byteAt fl 2 2 % 4096
    let ack := byteAt fl 4 2 % 4096
    let cvc := byteAt fl 6 2 % 4
    let freed := byteAt fl 6 2 / 4 % 256
    let s := if bit (byteAt fl 4 2) 12 then s.takeNak p ack else s.modPort p fun k => k.acked ack
    let s := (s.modPort p fun k => { k with credits := k.credits.modify cvc fun c => min 64 (c + freed) }).pump p
    if ty = 0 ∨ ty > 2 then s
    else
      let k := s.port p
      if seq = k.expected then
        let s := s.modPort p fun k => { k with expected := (k.expected + 1) % 4096, nakSent := false }
        let s := s.answer p false vc 1
        let dest := byteAt fl 8 1
        if dest = 0xFF || s.herd.answersTo = none || s.herd.answersTo = some dest then s else s.passOn fl
      else if seqLe seq k.expected || k.nakSent then s
      else (s.answer p true 0 0).modPort p fun k => { k with nakSent := true, nakCnt := k.nakCnt + 1 }

def nakReceive (p ack : Nat) (s : State) : State := if portUp (s.port p) then s.takeNak p (ack % 4096) else s

def ackTimeout (p : Nat) (s : State) : State := if portUp (s.port p) then s.resend p else s

/-! ### Training (R276, Table HRD-3) -/

/-- The port goes into training. -/
def Port.train (k : Port) : Port := { k with state := 1 }

/-- The port goes DOWN: what was in flight is lost, and it starts afresh when it next comes UP. -/
def Port.down (k : Port) : Port :=
  { k with state := 0, downCnt := k.downCnt + 1, kept := [], waiting := [], next := 0, expected := 0, nakSent := false,
           resends := 0, chunk := none, share := false, credits := [64, 64, 64], far := none, farId := 0xFF, farPort := 0 }

/-- One failed attempt; the third in a row leaves the port DOWN (R276, R272). -/
def State.failedAttempt (s : State) (p lanes : Nat) : State :=
  let s := s.modPort p fun k => { k with attempts := k.attempts + 1 }
  if (s.port p).attempts ≥ 3 then
    ((s.modPort p Port.down).log 0x21 (0x30 + p) none lanes 0).herdEvent 5
  else s

/-- Lanes 2 and 3, and no other, have failed. -/
def halfOnly (lanes : Nat) : Bool := lanes = 0b1100

/-- LINK_ID to the far end of a port (R280, Table HRD-3 step 5). -/
def State.sendLinkId (s : State) (p : Nat) : State :=
  s.sendPort p { vc := 0, name := "LINK_ID", args := [Config.serial.toNat, p, s.image.fw.toNat, s.image.tree] }

/-- Gynis works: not in FALLOW, in a reset or without power (12 R349). -/
def State.gynUp (s : State) : Bool := s.mode = .ready || s.mode = .debugOpen || s.mode = .halted

def portTrained (p : Nat) (r : TrainResult) (s : State) : State :=
  if (s.port p).state != 1 || !s.gynUp then s
  else
    let s := s.modPort p fun k => { k with polarity := r.polarity }
    let lanes := r.lanesFailed.toNat
    if lanes = 0 || halfOnly lanes then
      let held (k : Port) (vc : Nat) : Nat := 64 - (k.kept.filter fun f => f.msg.vc = vc).length
      let s := s.modPort p fun k => { k with state := if lanes = 0 then 2 else 3, attempts := 0,
                                             credits := [held k 0, held k 1, held k 2] }
      let s := (s.resend p).modPort p fun k => { k with resends := 0 }
      s.sendLinkId p
    else s.failedAttempt p lanes

def trainTimeout (p : Nat) (s : State) : State :=
  if (s.port p).state != 1 || !s.gynUp then s else s.failedAttempt p 0xF

/-- A port that was UP retrains (R272, R276): logged and counted. -/
def State.retrain (s : State) (p seq n : Nat) : State :=
  (s.modPort p fun k => { k with state := 1, retrainCnt := k.retrainCnt + 1 }).log 0x20 (0x30 + p) none seq n

def resendLimit (p : Nat) (s : State) : State :=
  let k := s.port p
  if portUp k && k.resends ≥ 16 then s.retrain p ((k.kept.map (·.seq)).headD 0) k.resends else s

def blockLockLoss (p : Nat) (s : State) : State := if portUp (s.port p) then s.retrain p (s.port p).next 0 else s

/-- RETRAIN_p (14 R391). -/
def State.retrainPort (s : State) (p : Nat) : State :=
  if (s.port p).state = 0 then s.modPort p fun k => { k.train with attempts := 0 } else s

end Sys2Proof.Machine
end

