-- ==== Sys2Proof/Machine/Train.lean ====
section
/-!
DEFINITION. The training path of one device: UPDATE_STEP, local commit and rollback, COMMIT_STEP and its messages,
checkpoints (09 R245 to R265; 07 R184).
-/
namespace Sys2Proof.Machine

/-! ### Ends that concern the herd -/

/-- HERD_TIMEOUT, with the member concerned (14 Table REG-20 LAST_FAIL). -/
def State.herdTimeout (s : State) (p : Pkt) (member : Nat) (step : BitVec 64 := 0) : State :=
  { s.endPkt p.id .herdTimeout 0 0 with
    herd := { s.herd with failId := member % 64, failOp := p.op, failValid := true, failStep := step } }

/-- The twin is absent or disagrees (12 R345). -/
def State.noTwin (s : State) : Bool := s.pwr.twinAbsent || s.pwr.twinDisagree

/-- The twin's herd ID, for LAST_FAIL; the device's own place without a herd. -/
def State.twinName (s : State) : Nat := if s.herd.formed then s.herd.twinId else 0

/-! ### Parameter pages (R252 to R255) -/

def State.paramPages (s : State) : Nat := s.regions.paramSize / 65536

/-- Page state bits (Table TRN-5). -/
def pgGen (v : BitVec 4) : Bool := v.getLsbD 0
def pgPending (v : BitVec 4) : Bool := v.getLsbD 1
def pgLast (v : BitVec 4) : Bool := v.getLsbD 2
def pgDirty (v : BitVec 4) : Bool := v.getLsbD 3

/-- Every page whose bits are not those of configuration changes. -/
def State.mapPages (s : State) (f : BitVec 4 → BitVec 4) : State :=
  { s with regions := { s.regions with
      pages := (s.regions.pages.map fun x => (x.1, f x.2)).filter fun x => x.2 != 0x8 } }

/-- Local commit (R255). -/
def State.localCommit (s : State) : State :=
  let s := s.mapPages fun v => if pgPending v then ((v ^^^ 0x1) &&& 0x9) ||| 0xC else v &&& 0xB
  { s with train := { s.train with committed := s.train.committed + 1, undoOk := true,
                                   last := List.replicate 8 none } }

/-- PENDING clears on every page: rollback to COMMITTED_STEP. -/
def State.clearPending (s : State) : State :=
  let s := s.mapPages fun v => v &&& 0xD
  { s with train := { s.train with last := List.replicate 8 none } }

/-- Rollback to COMMITTED_STEP - 1. -/
def State.undoStep (s : State) : State :=
  let s := s.mapPages fun v => if pgLast v then ((v ^^^ 0x1) &&& 0x9) ||| 0x8 else v &&& 0x9
  { s with train := { s.train with committed := s.train.committed - 1, undoOk := false,
                                   last := List.replicate 8 none } }

/-- Local rollback to a target step (R255, R257). -/
def State.rollbackTo (s : State) (target : BitVec 64) : State :=
  if s.train.committed = target then s.clearPending
  else if s.train.committed = target + 1 && s.train.undoOk then s.undoStep
  else s

/-! ### Bytes of one copy -/

/-- Bytes at a backing address, through L2 as a Sluice unit reads (08 R194, R208). -/
def State.rawRead (s : State) (src : Src) : Nat → Nat → Nat → List (BitVec 8) × Option Nat × State
  | 0, _, _ => ([], none, s)
  | fuel + 1, a, n =>
    if n = 0 then ([], none, s)
    else
      let off := a % 32
      let k := min n (32 - off)
      let (d, p, s1) := s.readSector src a (a / 32)
      if p then (List.replicate n 0, some (a - off), s1)
      else
        let (rest, e, s2) := s1.rawRead src fuel (a + k) (n - k)
        (((sectorBytes d).drop off).take k ++ rest, e, s2)

def State.rawWrite (s : State) (src : Src) : Nat → Nat → List (BitVec 8) → Option Nat × State
  | 0, _, _ => (none, s)
  | fuel + 1, a, bs =>
    if bs = [] then (none, s)
    else
      let off := a % 32
      match s.writeSector src (a / 32) off (bs.take (32 - off)) with
      | (true, s) => s.rawWrite src fuel (a + (32 - off)) (bs.drop (32 - off))
      | (false, s) => (some (a - off), s)

/-- The same for a packet, whose recording keeps what it reads and writes (R266). -/
def State.rawGet (s : State) (src : Src) (a n : Nat) : List (BitVec 8) × Option Nat × State :=
  let (b, e, s) := s.rawRead src (n / 32 + 2) a n
  (b, e, s.logRead src [(a, b)])
def State.rawPut (s : State) (src : Src) (a : Nat) (bs : List (BitVec 8)) : Option Nat × State :=
  (s.logWrite src [(a, bs)]).rawWrite src (bs.length / 32 + 2) a bs

/-- The Sluice Update Units access HBM with the hint EVICT_FIRST (08 R207). -/
def sluiceSrc (id : Nat) : Src := { sluice := true, hint := .evictFirst, pkt := some id }

/-- CHECKPOINT and RESTORE access HBM with the hint EVICT_FIRST (08 Table MEM-3). -/
def evictSrc (id : Nat) : Src := { hint := .evictFirst, pkt := some id }

/-- The copy of its page that an update reads: the other one once the page is PENDING (R254). -/
def State.updCopy (s : State) (page : Nat) : Bool := pgGen (s.pageState page) != pgPending (s.pageState page)

/-- Address at which an update reads an operand byte: in the parameter region, in the copy of its page that R254 names. -/
def State.updAddr (s : State) (a : Nat) : Nat :=
  if s.inParams a then s.paramCopy (s.updCopy ((a - s.regions.paramBase) / 65536)) a else a

/-- Bytes as an update reads them, parameters and gradients alike (R254), by parts of one page each. -/
def State.updParts (s : State) (src : Src) : List (Nat × Nat × Nat) → List (BitVec 8) × Option Nat × State
  | [] => ([], none, s)
  | (_, lo, n) :: t =>
    let (b, e, s) := s.rawGet src (s.updAddr lo) n
    let (r, e', s) := s.updParts src t
    (b ++ r, (match e with | some a => some a | none => e'), s)
def State.updRead (s : State) (src : Src) (a n : Nat) : List (BitVec 8) × Option Nat × State :=
  s.updParts src (pageParts 0 a n)

/-- A page becomes PENDING: its other copy takes the bytes of the current one (R254). -/
def State.openPage (s : State) (src : Src) (pg : Nat) : Option Nat × State :=
  let v := s.pageState pg
  if pgPending v then (none, s)
  else
    let a := s.regions.paramBase + pg * 65536
    match s.rawGet src (s.paramCopy (pgGen v) a) 65536 with
    | (_, some x, s) => (some x, s)
    | (b, none, s) =>
      match s.rawPut src (s.paramCopy (!pgGen v) a) b with
      | (some x, s) => (some x, s)
      | (none, s) => (none, s.setPage pg (v ||| 0x2))

def State.openPages (s : State) (src : Src) : List Nat → Option Nat × State
  | [] => (none, s)
  | pg :: t =>
    match s.openPage src pg with
    | (some x, s) => (some x, s)
    | (none, s) => s.openPages src t

/-- Updated bytes go into the other copies. -/
def State.updWrite (s : State) (src : Src) (a : Nat) (bs : List (BitVec 8)) : Option Nat × State :=
  (pageParts s.regions.paramBase a bs.length).foldl (fun r x =>
    match r with
    | (some e, s) => (some e, s)
    | (none, s) => s.rawPut src (s.paramCopy (!pgGen (s.pageState x.1)) x.2.1)
        ((bs.drop (x.2.1 - a)).take x.2.2)) (none, s)

/-! ### UPDATE_STEP (R245 to R249) -/

/-- One rounding to FP32 under RNE. -/
def fl (v : Val) : Val := v.to32

/-- Exact power of a value in [0, 1). -/
def powVal (v : Val) (n : Nat) : Val :=
  match v with
  | .fin g m e => .fin (g && n % 2 = 1) (m ^ n) (e * n)
  | x => x

/-- 1 - BETA^STEP: 34-bit format, then FP32 (R248). -/
def biasOf (beta : Val) (step : Nat) : Val := fl ((Val.one.sub (powVal beta step)).round34)

/-- sign of R248: 0 at 0. -/
def signVal (v : Val) : Val :=
  match v with
  | .nan => .nan
  | x => if x.isZero then .zero else if x.isNeg then Val.one.neg else .one

/-- Fields of an UPDATE_STEP. -/
structure Upd where
  algo : Nat
  split : Bool
  pa : Nat
  n : Nat
  ga : Nat
  ma : Nat
  step : Nat
  pd : Desc
  prnd : Nat
  gd : Desc
  lr : Val
  b1 : Val
  b2 : Val
  eps : Val
  wd : Val
  gs : Val
  keyBase : BitVec 64

def updOf (p : Pkt) : Upd :=
  let f (i : Nat) : Val := f32val (p.dw.getD i 0)
  { algo := p.w 2 % 4, split := bit (p.w 2) 2, pa := p.a40 4, n := p.a40 6, ga := p.a40 8, ma := p.a40 10, step := p.q 12,
    pd := descOf (p.w 14), prnd := field (p.w 14) 7 4, gd := descOf (p.w 15), lr := f 16, b1 := f 17, b2 := f 18, eps := f 19,
    wd := f 20, gs := f 21, keyBase := BitVec.ofNat 64 (p.q 22) }

/-- Bytes of a parameter, of the lo plane's distance, of a moment entry. -/
def Upd.psz (u : Upd) : Nat := if u.split then 2 else u.pd.fmt.bytes
def Upd.plane (u : Upd) : Nat := (2 * u.n + 65535) / 65536 * 65536
def Upd.msz (u : Upd) : Nat := if u.algo = 1 then 8 else 4
def Upd.pranges (u : Upd) : List (Nat × Nat) :=
  (u.pa, u.n * u.psz) :: (if u.split then [(u.pa + u.plane, 2 * u.n)] else [])
def Upd.mrange (u : Upd) : Nat × Nat := (u.ma, u.n * u.msz)

/-- One parameter: exact new weight, m, v (R248). -/
def Upd.one (u : Upd) (c1 c2 w g m v : Val) : Val × Val × Val :=
  let g := fl (u.gs.mul g)
  let wdw := fl (u.wd.mul w)
  let mix (b x y : Val) : Val := fl ((fl (b.mul x)).add (fl ((fl (Val.one.sub b)).mul y)))
  match u.algo with
  | 0 =>
    let m := fl ((fl (u.b1.mul m)).add (fl (g.add wdw)))
    (w.sub (u.lr.mul m), m, v)
  | 1 =>
    let m := mix u.b1 m g
    let v := mix u.b2 v (fl (g.mul g))
    let x := fl ((fl (m.div c1)).div (fl ((fl ((fl (v.div c2)).sqrt)).add u.eps)))
    (w.sub (u.lr.mul (fl (x.add wdw))), m, v)
  | _ =>
    let c := mix u.b1 m g
    let x := fl ((signVal c).add wdw)
    (w.sub (u.lr.mul x), mix u.b2 m g, v)

/-- Slices of n bytes. -/
def slices (n : Nat) : Nat → List (BitVec 8) → List Nat
  | 0, _ => []
  | k + 1, b => ofBytes (b.take n) :: slices n k (b.drop n)

/-- New bits of every parameter: hi or stored bits, lo bits, moment bytes, flags. DEDUCED, log 35: under MASTER_SPLIT the FP32
master is read and written without PARAM_FMT's OVF_MODE, DAZ and FTZ. -/
def Upd.all (u : Upd) (c1 c2 : Val) (key : Key) : Nat → List Nat → List Nat → List Nat → List Nat →
    List (Nat × Nat × List (BitVec 8)) × Flags
  | i, w :: ws, lo :: los, g :: gs, m :: ms =>
    let wv := if u.split then f32val (BitVec.ofNat 32 (w * 65536 + lo)) else u.pd.read w
    let mv := f32val (BitVec.ofNat 32 m)
    let vv := f32val (BitVec.ofNat 32 (m / 2 ^ 32))
    let (wn, mn, vn) := u.one c1 c2 wv (u.gd.read g) mv vv
    let (wb, f0) := if u.split then fp32.write .rne wn else u.pd.write (key.at i 0 3 0) wn
    let (mb, f1) := fp32.write .rne mn
    let (vb, f2) := if u.algo = 1 then fp32.write .rne vn else (0, {})
    let (r, f) := u.all c1 c2 key (i + 1) ws los gs ms
    ((if u.split then (wb / 65536, wb % 65536, leBytes 4 mb ++ (if u.algo = 1 then leBytes 4 vb else []))
      else (wb, 0, leBytes 4 mb ++ (if u.algo = 1 then leBytes 4 vb else []))) :: r, ((f0.or f1).or f2).or f)
  | _, _, _, _, _ => ([], {})

/-- In [0, 1) as FP32. -/
def unitRange (w : Nat) : Bool := w = 0x80000000 || w < 0x3F800000

/-- Herd rounding points under SR_MODE and FORMAT_POLICY (10 R292). -/
def State.srBad (s : State) (part rnd : Nat) : Bool :=
  s.herd.formed && s.herd.part = part && ((mfSr s.herd.header = 0 && rnd ≥ 2) || (mfSr s.herd.header = 1 && rnd = 3))
def State.fmtBad (s : State) (part code : Nat) : Bool :=
  s.herd.formed && s.herd.part = part && !bit (mfPolicy s.herd.header) code

/-- Offences of UPDATE_STEP (R245 to R247, Table OPC-12). -/
def State.updOffs (s : State) (p : Pkt) : List Off :=
  let u := updOf p
  let pr := u.pranges
  let inside (x : Nat × Nat) : Bool :=
    s.regions.paramBase ≤ x.1 && x.1 + x.2 ≤ s.regions.paramBase + s.regions.paramSize
  let meets (x y : Nat × Nat) : Bool := x.1 < y.1 + y.2 && y.1 < x.1 + x.2
  off (s.regions.paramSize = 0 || s.regions.ckptBase.isNone || s.train.undecided || s.herd.barred) 0 0 ++
  off (u.algo = 3) 2 0 ++ off (u.split && p.w 14 % 16 ≤ 2 && p.w 14 % 16 != 1) 2 2 ++ rsv p 2 0x7 ++ rsv p 3 0 ++
  off (u.pa % 65536 != 0 || !pr.all inside) 4 0 ++ rsv p 5 0xFF ++ off (u.n = 0) 6 0 ++ rsv p 7 0xFF ++
  off (u.ga % u.gd.fmt.bytes != 0) 8 0 ++ rsv p 9 0xFF ++
  off (u.ma % 65536 != 0 || !inside u.mrange || pr.any fun x => meets x u.mrange) 10 0 ++ rsv p 11 0xFF ++
  off (BitVec.ofNat 64 u.step != s.train.committed + 1) 12 0 ++
  fmtOffs p 14 ++ off (p.w 14 % 16 > 2 || s.fmtBad p.part (p.w 14 % 16)) 14 0 ++
  off (!u.split && (s.srBad p.part u.prnd || (s.replay.armed.isSome && u.prnd = 3))) 14 4 ++
  fmtOffs p 15 ++ off (p.w 15 % 16 > 2 || s.fmtBad p.part (p.w 15 % 16)) 15 0 ++
  off (!isFinite32 (p.w 16)) 16 0 ++ off (!unitRange (p.w 17)) 17 0 ++
  off (if u.algo = 0 then p.w 18 != 0 else !unitRange (p.w 18)) 18 0 ++
  off (if u.algo = 1 then !isFinite32 (p.w 19) || p.w 19 = 0 || p.w 19 ≥ 0x80000000 else p.w 19 != 0) 19 0 ++
  off (!isFinite32 (p.w 20)) 20 0 ++ off (!isFinite32 (p.w 21)) 21 0 ++ rsvAll p 24 32 []

def State.updDec (s : State) (p : Pkt) : Dec :=
  let u := updOf p
  let rs := u.pranges ++ [u.mrange]
  { offs := s.updOffs p, extents := (u.ga, u.n * u.gd.fmt.bytes) :: rs,
    reach := [(flat u.ga (u.n * u.gd.fmt.bytes), false)] }

/-- Pages an update writes. -/
def State.updPages (s : State) (u : Upd) : List Nat :=
  ((u.pranges ++ [u.mrange]).flatMap fun x => (pageParts s.regions.paramBase x.1 x.2).map (·.1)).eraseDups

/-- A running CHECKPOINT has still to send the other copy of one of the pages (R263). -/
def State.updWaits (s : State) (u : Upd) : Bool :=
  match s.train.ckpt with
  | some c => (s.updPages u).any fun pg => c.todo.any fun x => x.1 = pg && x.2 != pgGen (s.pageState pg)
  | none => false

/-- Stack whose Sluice Update Unit updates parameter i (R245). -/
def State.unitOf (s : State) (u : Upd) (i : Nat) : Nat := s.locOf (u.pa + i * u.psz) / stackSize

/-- The update itself: all operands are read, then the alternate copies are written. -/
def State.update (s : State) (p : Pkt) : State :=
  let u := updOf p
  let src := sluiceSrc p.id
  if s.updWaits u then
    let ks := (List.range 4).map fun k => (List.range u.n).any fun i => s.unitOf u i = k
    { s with train := { s.train with busy := ks } }
  else
    let s := { s with train := { s.train with busy := List.replicate 4 false } }
    let (hi, e0, s) := s.updRead src u.pa (u.n * u.psz)
    let (lo, e1, s) := if u.split then s.updRead src (u.pa + u.plane) (2 * u.n) else ([], none, s)
    let (mo, e2, s) := s.updRead src u.ma (u.n * u.msz)
    let (gr, e3, s) := s.updRead src u.ga (u.n * u.gd.fmt.bytes)
    match [e0, e1, e2, e3].filterMap id with
    | a :: t => s.compFail p.id .eccUncorr (t.foldl min a)
    | [] =>
      let key : Key := { mode := u.prnd, word := keyword p.seed u.keyBase, ctr := s.free }
      let s := s.draw
      let (r, f) := u.all (biasOf u.b1 u.step) (biasOf u.b2 u.step) key 0 (slices u.psz u.n hi) (slices 2 u.n lo)
        (slices u.gd.fmt.bytes u.n gr) (slices u.msz u.n mo)
      match s.openPages src (s.updPages u) with
      | (some a, s) => s.compFail p.id .eccUncorr a
      | (none, s) =>
        let w := s.updWrite src u.pa (r.flatMap fun x => leBytes u.psz x.1)
        let w := if u.split then w.2.updWrite src (u.pa + u.plane) (r.flatMap fun x => leBytes 2 x.2.1) else w
        let w := w.2.updWrite src u.ma (r.flatMap fun x => x.2.2)
        let s := w.2
        let counts := (List.range 4).map fun k => ((List.range u.n).filter fun i => s.unitOf u i = k).length
        let s : State := { s with train := { s.train with
          params := (s.train.params.zip counts).map fun x => x.1 + BitVec.ofNat 64 x.2,
          last := s.train.last.set p.part (some (BitVec.ofNat 64 u.step)) } }
        s.endPkt p.id .ok u.n u.step f

def updateBody : OpBody := {
  sel := selOp 0x50
  units := fun _ => 2
  dec := fun s p => s.updDec p
  body := fun s p => { s with train := { s.train with undoOk := false } }.update p
  resume := fun s p => s.update p }

def execUpdateStep (h : Nat) (s : State) : Host.Outcome State Fault Refusal := s.onHopper h updateBody

/-! ### ROLLBACK_STEP (R184, R255) -/

def rollbackBody : OpBody := {
  sel := selOp 0x52
  dec := fun s p =>
    let t := BitVec.ofNat 64 (p.q 2)
    { offs := off (!(t = s.train.committed || (t = s.train.committed - 1 && s.train.undoOk))) 2 0 ++ rsvAll p 4 16 [] }
  body := fun s p =>
    let s := if BitVec.ofNat 64 (p.q 2) = s.train.committed then s.clearPending else s.undoStep
    s.endPkt p.id .ok s.train.committed.toNat 0 }

def execRollbackStep (h : Nat) (s : State) : Host.Outcome State Fault Refusal := s.onHopper h rollbackBody

/-! ### The commit log in the twin (R256, Table TRN-6) -/

def logCode : LogState → Nat
  | .provisional => 0 | .final => 1 | .rolledBack => 2

/-- LOG to the twin; a FINAL or ROLLED_BACK one is owed until it is answered, and what is owed goes again with it. -/
def State.sendLog (s : State) (token step : BitVec 64) (st : LogState) : State :=
  let s := (s.train.owed ++ [(token, step, st)]).foldl
    (fun s x => s.sendTwin 0 "LOG" [x.1.toNat, x.2.1.toNat, logCode x.2.2]) s
  { s with train := { s.train with
      lastLog := some st
      owed := if st = .provisional then s.train.owed else s.train.owed ++ [(token, step, st)] } }

/-- What is owed goes again with checkpoint traffic. -/
def State.sendOwed (s : State) : State :=
  s.train.owed.foldl (fun s x => s.sendTwin 0 "LOG" [x.1.toNat, x.2.1.toNat, logCode x.2.2]) s

/-- The commit token (R256). -/
def State.token (s : State) (step : BitVec 64) : BitVec 64 :=
  if s.herd.formed then
    BitVec.ofNat 64 (step.toNat % 2 ^ 48 + (s.herd.leader % 64) <<< 48 + (s.herd.formCount.toNat % 1024) <<< 54)
  else BitVec.ofNat 64 (step.toNat % 2 ^ 48)

def State.setCommit (s : State) (c : Option CommitSt) : State := { s with train := { s.train with commit := c } }
def State.setLead (s : State) (l : Option Lead) : State := { s with herd := { s.herd with lead := l } }

/-- This device leads the herd. -/
def State.isLeader (s : State) : Bool := s.herd.formed && s.herd.leader = s.herd.self

/-! ### What a member does on the leader's messages (R257) -/

/-- COMMIT on a member: local commit, PROVISIONAL log. -/
def State.onCommit (s : State) (step token : BitVec 64) : State :=
  match s.train.commit with
  | some c =>
    if c.step = step && c.pkt.isSome && !c.flipped then
      (s.localCommit.setCommit (some { c with token := token, flipped := true })).sendLog token step .provisional
    else s
  | none => s

/-- DONE on a member: the packet completes, FINAL is logged. -/
def State.onDone (s : State) (step token : BitVec 64) : State :=
  match s.train.commit with
  | some c =>
    if c.step = step && c.flipped then
      let s := (s.setCommit none).sendLog token step .final
      let s : State := { s with train := { s.train with undecided := false } }
      match c.pkt with
      | some id => s.endPkt id .ok step.toNat token.toNat
      | none => s
    else s
  | none => s

/-- Step and token that a ROLLBACK to `target` undoes: those of COMMIT where it has come; else those it would carry (log 66). -/
def State.undone (s : State) (target : BitVec 64) : BitVec 64 × BitVec 64 :=
  match s.train.commit with
  | some c => (c.step, if c.flipped then c.token else s.token c.step)
  | none => (target + 1, s.token (target + 1))

/-- ROLLBACK on a member: local rollback, ROLLED_BACK log, the packet is aborted. -/
def State.onRollback (s : State) (target : BitVec 64) : State :=
  let (step, token) := s.undone target
  let pkt := s.train.commit.bind (·.pkt)
  let s := s.rollbackTo target
  let s : State := { s with train := { s.train with undecided := false } }
  let s := (s.setCommit none).sendLog token step .rolledBack
  match pkt with
  | some id => s.endPkt id .commitAborted 0 0
  | none => s

/-! ### What the leader does (R256 to R258) -/

/-- The leader rolls the herd back to a step. -/
def State.decideRollback (s : State) (target : BitVec 64) : State :=
  ((s.setLead none).sendAll 0 s.herd.members "ROLLBACK" [target.toNat]).onRollback target

/-- Every member is there, and each is in the list; never while the herd has lost a member that nothing restores (10 R298,
Table HRD-9). -/
def Herd.allOf (hd : Herd) (xs : List Nat) : Bool :=
  !hd.stranded && hd.members.all fun x => hd.present x && xs.contains x

/-- READY at the leader. -/
def State.onReady (s : State) (x : Nat) (step : BitVec 64) : State :=
  let l : Lead := match s.herd.lead with
    | some l => if l.step = step then l else { step := step }
    | none => { step := step }
  if l.token.isSome then s
  else
    let l := { l with ready := if l.ready.contains x then l.ready else l.ready ++ [x] }
    if s.herd.allOf l.ready then
      let t := s.token step
      ((s.setLead (some { l with token := some t })).sendAll 0 s.herd.members "COMMIT" [step.toNat, t.toNat]).onCommit step t
    else s.setLead (some l)

/-- ACK at the leader. -/
def State.onAck (s : State) (x : Nat) (step : BitVec 64) : State :=
  match s.herd.lead with
  | some l =>
    match l.token with
    | some t =>
      if l.step = step then
        let l := { l with acks := if l.acks.contains x then l.acks else l.acks ++ [x] }
        if s.herd.allOf l.acks then
          ((s.setLead none).sendAll 0 s.herd.members "DONE" [step.toNat, t.toNat]).onDone step t
        else s.setLead (some l)
      else s
    | none => s
  | none => s

/-- LOGGED: without a herd the commit is performed; with one the member sends ACK (R256, Table TRN-6). -/
def State.onLogged (s : State) (token : BitVec 64) : State :=
  match s.train.commit with
  | some c =>
    if c.token = token && !c.acked && (c.flipped || !s.herd.formed) then
      if s.herd.formed then
        let s := s.setCommit (some { c with acked := true })
        if s.isLeader then s.onAck s.herd.self c.step else s.send 0 s.herd.leader "ACK" [s.herd.self, c.step.toNat]
      else
        match c.pkt with
        | some id => (((s.localCommit.setCommit none).sendLog token c.step .final)).endPkt id .ok c.step.toNat token.toNat
        | none => s
    else { s with train := { s.train with owed := s.train.owed.filter fun x => x.1 != token } }
  | none => { s with train := { s.train with owed := s.train.owed.filter fun x => x.1 != token } }

/-- What this device tells a leader (Table TRN-6, STATE), with the newest entry of the log it keeps for its twin, which
speaks for a twin that is lost (R258). -/
def State.ownState (s : State) : MemberState :=
  { x := s.herd.self, committed := s.train.committed, undecided := s.train.undecided || s.train.commit.isSome,
    log := s.train.lastLog, twin := s.train.log.head? }

/-- A new leader has heard every live member: DONE or ROLLBACK for all (R258, log 66). -/
def State.resolve (s : State) : State :=
  let st := s.herd.states
  let steps := st.map fun m => m.committed.toNat
  let hi := steps.foldl max 0
  let lo := steps.foldl min hi
  let top := st.filter fun m => m.committed.toNat = hi
  let logs := (st.filterMap (·.twin)).filter fun x => x.2.1.toNat = hi
  let final := (top.any fun m => m.log = some .final) || logs.any fun x => x.2.2 = .final
  let flight := top.any fun m => m.log = some .provisional
  let s : State := { s with herd := { s.herd with resolving := false, states := [], lead := none } }
  if final && (lo < hi || flight) then
    let t := ((logs.head?.map (·.1)).getD (s.token (BitVec.ofNat 64 hi)))
    (s.sendAll 0 s.herd.members "DONE" [hi, t.toNat]).onDone (BitVec.ofNat 64 hi) t
  else if lo < hi || !flight then s.decideRollback (BitVec.ofNat 64 lo)
  else s.decideRollback (BitVec.ofNat 64 (hi - 1))

/-- STATE at the leader: kept while it resolves; else a member that answers again is settled, once no commit is in progress
(R257, R258). -/
def State.onState (s : State) (m : MemberState) : State :=
  if s.herd.resolving then
    let st := (s.herd.states.filter fun x => x.x != m.x) ++ [m]
    let s : State := { s with herd := { s.herd with states := st } }
    if s.herd.live.all fun x => st.any fun y => y.x = x then s.resolve else s
  else if m.undecided && s.herd.lead.isNone then
    let c := s.train.committed
    if m.committed = c && m.log = some .provisional then s.send 0 m.x "DONE" [c.toNat, (s.token c).toNat]
    else s.send 0 m.x "ROLLBACK" [c.toNat]
  else s

/-! ### COMMIT_STEP -/

def State.commitOffs (s : State) (p : Pkt) : List Off :=
  let t := BitVec.ofNat 64 (p.q 2)
  off (s.train.undecided || s.herd.barred) 0 0 ++
  off (t != s.train.committed + 1 || s.train.last.getD p.part none != some t) 2 0 ++ rsvAll p 4 16 []

def commitBody : OpBody := {
  sel := selOp 0x51
  dec := fun s p => { offs := s.commitOffs p }
  body := fun s p =>
    let t := BitVec.ofNat 64 (p.q 2)
    let wait (s : State) : State := s.modPkt p.id fun q => { q with wait := .herd }
    if s.herd.formed then
      let s := (wait s).setCommit (some { pkt := some p.id, step := t })
      if s.isLeader then s.onReady s.herd.self t else s.send 0 s.herd.leader "READY" [s.herd.self, t.toNat]
    else if s.noTwin then s.herdTimeout p s.twinName t
    else ((wait s).setCommit (some { pkt := some p.id, step := t, token := s.token t })).sendLog (s.token t) t .provisional }

def execCommitStep (h : Nat) (s : State) : Host.Outcome State Fault Refusal := s.onHopper h commitBody

/-- COMMIT_STEP's wait has passed HERD_WAIT_LIMIT (R256 to R258): the leader rolls back, any other member is UNDECIDED. -/
def State.commitExpired (s : State) (p : Pkt) : State :=
  match s.train.commit with
  | none => s
  | some c =>
    if !s.herd.formed then (s.setCommit none).herdTimeout p s.twinName c.step
    else if s.isLeader then s.decideRollback (c.step - 1)
    else
      let s := (s.setCommit (some { c with pkt := none })).herdTimeout p s.herd.leader c.step
      { s with train := { s.train with undecided := true } }

/-! ### The messages as commands -/

def execReadyMessage (x : Nat) (step : BitVec 64) (s : State) : Host.Outcome State Fault Refusal :=
  noted (x < 64) (if s.isLeader && s.running then s.onReady x step else s)
def execAck (x : Nat) (step : BitVec 64) (s : State) : Host.Outcome State Fault Refusal :=
  noted (x < 64) (if s.isLeader && s.running then s.onAck x step else s)
def execCommit (step token : BitVec 64) (s : State) : Host.Outcome State Fault Refusal :=
  noted true (if s.herd.formed && s.running then s.onCommit step token else s)
def execDone (step token : BitVec 64) (s : State) : Host.Outcome State Fault Refusal :=
  noted true (if s.herd.formed && s.running then s.onDone step token else s)
def execRollback (step : BitVec 64) (s : State) : Host.Outcome State Fault Refusal :=
  noted true (if s.herd.formed && s.running then s.onRollback step else s)
def execLogged (token : BitVec 64) (s : State) : Host.Outcome State Fault Refusal :=
  noted true (if s.running then s.onLogged token else s)
def execState (x : Nat) (committed : BitVec 64) (undecided : Bool) (logs : StateLogs) (s : State) :
    Host.Outcome State Fault Refusal :=
  noted (x < 64) (if s.isLeader && s.running then
    s.onState { x := x, committed := committed, undecided := undecided, log := logs.own, twin := logs.twin } else s)

/-- LOG at the twin: an entry of its commit log, answered (Table TRN-6). -/
def execLog (token step : BitVec 64) (state : LogState) (s : State) : Host.Outcome State Fault Refusal :=
  noted true (if s.running && s.regions.ckptBase.isSome then
    ({ s with train := { s.train with log := ((token, step, state) :: s.train.log).take 1024 } }).sendTwin 0 "LOGGED" [token.toNat]
  else s)

end Sys2Proof.Machine
end

