-- ==== Sys2Proof/Machine/Ckpt.lean ====
section
/-!
DEFINITION. CHECKPOINT and RESTORE on both sides, and what the checkpoint reserve shows (09 R259 to R265, Table TRN-7).
-/
namespace Sys2Proof.Machine

/-! ### Frames of a reserve -/

def frameCount : Nat := 131040

/-- Frames that a list of checkpoints uses. -/
def usedFrames (cs : List Ckpt) : List Nat := (cs.flatMap fun c => c.dir.map (·.2)).eraseDups

def freeFrameOf (cs : List Ckpt) : Option Nat :=
  let used := usedFrames cs
  (List.range (min (used.length + 1) frameCount)).find? fun f => !used.contains f

/-- Complete checkpoints, the newest first. -/
def complete (cs : List Ckpt) : List Ckpt := cs.filter (·.complete)

/-- Slot of a new checkpoint. -/
def freeSlotOf (cs : List Ckpt) : Nat := ((List.range 3).find? fun k => !cs.any fun c => c.slot = k).getD 0

/-- The directory of a checkpoint built from the latest complete one, with the sent pages replaced (R261). -/
def buildDir (old new : List (Nat × Nat)) : List (Nat × Nat) :=
  (old.filter fun x => !new.any fun y => y.1 = x.1) ++ new

/-- Checkpoint of `step` is complete: the two latest complete ones stay (R262). -/
def completeCkpt (cs : List Ckpt) (step : BitVec 64) : List Ckpt :=
  match cs.find? fun c => c.step = step && !c.complete with
  | none => cs
  | some c =>
    let old := complete cs
    let dir := buildDir ((old.head?.map (·.dir)).getD []) c.dir
    { c with complete := true, dir := dir } :: (old.filter fun x => x.slot != c.slot).take 1

/-- A page put into a free frame for a checkpoint in progress; none without one. -/
def addPage (cs : List Ckpt) (step : BitVec 64) (page : Nat) : Option (List Ckpt × Nat) :=
  -- an earlier checkpoint in progress is discarded
  let cs := cs.filter fun c => c.complete || c.step = step
  match freeFrameOf cs with
  | none => none
  | some f =>
    match cs.find? fun c => !c.complete with
    | some c => some (cs.map (fun x => if x.slot = c.slot then { x with dir := x.dir ++ [(page, f)] } else x), f)
    | none => some ({ slot := freeSlotOf cs, step := step, complete := false, dir := [(page, f)] } :: cs, f)

def State.frameAt (s : State) (f : Nat) : Nat := s.regions.ckptBase.getD 0 + 0x200000 + f * 65536

/-! ### CHECKPOINT (R261 to R263) -/

/-- The steps that the holder confirms as complete (14 R389). -/
def State.refreshTwinCkpt (s : State) : State :=
  let c := complete s.train.mirror
  { s with train := { s.train with
      twinNew := (c.head?.map (·.step)).getD (BitVec.allOnes 64)
      twinOld := ((c.drop 1).head?.map (·.step)).getD (BitVec.allOnes 64) } }

/-- Pages that a CHECKPOINT takes, with the copy that holds the step (R261). -/
def State.ckptPages (s : State) (full : Bool) : List (Nat × Bool) :=
  ((List.range s.paramPages).filter fun p => full || pgDirty (s.pageState p)).map fun p => (p, pgGen (s.pageState p))

def State.ckptOffs (s : State) (p : Pkt) : List Off :=
  let n := (s.ckptPages (bit (p.w 2) 0)).length
  off (s.regions.paramSize = 0 || s.train.ckpt.isSome) 0 0 ++
  off (n > frameCount - (usedFrames s.train.mirror).length) 2 0 ++ rsv p 2 0x1 ++ rsvAll p 3 16 []

/-- At decode the pages are taken and their DIRTY bits clear; nothing is taken while the twin is missing. -/
def State.takeCkpt (s : State) (p : Pkt) : State :=
  if s.noTwin then s
  else
    let todo := s.ckptPages (bit (p.w 2) 0)
    let s := todo.foldl (fun s x => s.setPage x.1 (s.pageState x.1 &&& 0x7)) s
    { s with train := { s.train with ckpt := some { pkt := p.id, step := s.train.committed, todo := todo } } }

/-- Pages of a discarded checkpoint are DIRTY again (R252, log 37). -/
def State.dropCkpt (s : State) : State :=
  match s.train.ckpt with
  | none => s
  | some c =>
    let pages := c.sent ++ c.todo.map (·.1)
    let s := pages.foldl (fun s pg => s.setPage pg (s.pageState pg ||| 0x8)) s
    { s with train := { s.train with ckpt := none } }

/-- One page goes to the twin on VC_2; after the last, the end of the checkpoint (R261, R264). DEDUCED, log 37: the pages of a
checkpoint that a read error ends are DIRTY again. -/
def State.sendCkpt (s : State) (p : Pkt) : State :=
  match s.train.ckpt with
  | none => s
  | some c =>
    match c.todo with
    | [] => s
    | (pg, gen) :: t =>
      let a := s.regions.paramBase + pg * 65536
      match s.rawGet (evictSrc p.id) (s.paramCopy gen a) 65536 with
      | (_, some _, s) => s.dropCkpt.compFail p.id .eccUncorr a
      | (b, none, s) =>
        let s := s.sendTwin 2 "CHECKPOINT_PAGE" [s.herd.self, c.step.toNat, pg, b2n (t = [])] b
        { s with train := { s.train with ckpt := some { c with todo := t, sent := c.sent ++ [pg] } } }

def ckptBody : OpBody := {
  sel := selOp 0x58
  dec := fun s p => { offs := s.ckptOffs p }
  atDecode := fun s p => s.takeCkpt p
  body := fun s p =>
    if s.noTwin || s.train.ckpt.isNone then
      { s with train := { s.train with ckpt := none } }.herdTimeout p s.twinName s.train.committed
    else
      let s := s.sendOwed.modPkt p.id fun q => { q with wait := .herd }
      match s.train.ckpt with
      | some c =>
        if c.todo = [] then s.sendTwin 2 "CHECKPOINT_PAGE" [s.herd.self, c.step.toNat, 0xFFFFFFFF, 1] else s.sendCkpt p
      | none => s
  resume := fun s p => s.sendCkpt p }

def execCheckpoint (h : Nat) (s : State) : Host.Outcome State Fault Refusal := s.onHopper h ckptBody

/-- The holder has confirmed this device's CHECKPOINT. -/
def State.ckptConfirmed (s : State) (step : BitVec 64) : State :=
  match s.train.ckpt with
  | some c =>
    if c.step = step && c.todo = [] && ((s.pkt c.pkt).map (·.stage)) = some .running then
      let m := c.sent.foldl (fun m pg => match addPage m step pg with | some x => x.1 | none => m)
        (s.train.mirror.filter (·.complete))
      let m := if c.sent = [] then { slot := freeSlotOf m, step := step, complete := false, dir := [] } :: m else m
      let s : State := { s with train := { s.train with ckpt := none, mirror := completeCkpt m step } }
      (s.refreshTwinCkpt).endPkt c.pkt .ok (c.sent.length * 65536) step.toNat
    else s
  | none => s

/-- CHECKPOINT_PAGE on the holder: the page goes into a free frame (R261). -/
def checkpointPage (step : BitVec 64) (page : Nat) (bytes : List (BitVec 8)) (s : State) : State :=
  if !s.running || s.regions.ckptBase.isNone || bytes.length != 65536 then s
  else
    match addPage s.train.held step page with
    | none => s
    | some (cs, f) =>
      let s : State := { s with train := { s.train with held := cs } }
      (s.rawWrite {} 2050 (s.frameAt f) bytes).2

def execCheckpointPage (x : Nat) (step : BitVec 64) (page : Nat) (bytes : List (BitVec 8)) (s : State) :
    Host.Outcome State Fault Refusal :=
  noted (x < 64 && page < 114688) (checkpointPage step page bytes s)

/-- CHECKPOINT_CONFIRM: on the holder the checkpoint becomes complete and is confirmed; on the sender it completes. -/
def checkpointConfirm (side : ConfirmSide) (s : State) : State :=
  if !s.running then s
  else
    match side with
    | .holder x step =>
      if s.regions.ckptBase.isNone then s
      else
        let held := if s.train.held.any fun c => c.step = step && !c.complete then s.train.held
          else { slot := freeSlotOf (complete s.train.held), step := step, complete := false, dir := [] } :: complete s.train.held
        let s : State := { s with train := { s.train with held := completeCkpt held step } }
        if s.herd.formed && s.herd.logicalTwin.isSome then s.send 2 x "CHECKPOINT_CONFIRM" [step.toNat]
        else s.sendTwin 2 "CHECKPOINT_CONFIRM" [step.toNat]
    | .sender step => s.ckptConfirmed step

def confirmOk : ConfirmSide → Bool
  | .holder x _ => x < 64
  | .sender _ => true

def execCheckpointConfirm (side : ConfirmSide) (s : State) : Host.Outcome State Fault Refusal :=
  noted (confirmOk side) (checkpointConfirm side s)

/-! ### RESTORE (R265, R301) -/

/-- Herd ID of the holder of x's checkpoints: its twin's herd ID, whoever answers for it (R301). -/
def State.holderOf (s : State) (x : Nat) : Nat := match s.herd.entry x with | some e => e.twin | none => 0xFF

def State.restoreOffs (s : State) (p : Pkt) : List Off :=
  off (s.regions.paramSize = 0) 0 0 ++ rsv p 2 0x3F ++ rsv p 3 0 ++ rsvAll p 6 16 []

/-- The named checkpoint is held by the device on port 0. -/
def State.ownHolder (s : State) (member : Nat) : Bool := !s.herd.formed || s.holderOf member = s.herd.twinId

/-- At decode the holder is asked (R265). -/
def State.askRestore (s : State) (p : Pkt) : State :=
  let m := p.w 2 % 64
  let step := BitVec.ofNat 64 (p.q 4)
  if s.ownHolder m && s.herd.logicalTwin.isNone && s.noTwin then s.herdTimeout p s.twinName step
  else
    let s := s.modPkt p.id fun q => { q with wait := .herd }
    let s : State := { s with train := { s.train with restore := some { pkt := p.id, member := m, step := step } } }
    if s.ownHolder m then s.sendTwin 0 "RESTORE_QUERY" [s.herd.self, m, step.toNat]
    else s.send 0 (s.holderOf m) "RESTORE_QUERY" [s.herd.self, m, step.toNat]

/-- Bytes of a page go into the current copy (R265). -/
def State.restoreWrite (s : State) (pkt pg : Nat) (b : List (BitVec 8)) : State :=
  let a := s.regions.paramBase + pg * 65536
  (s.rawPut (evictSrc pkt) (s.paramCopy (pgGen (s.pageState pg)) a) b).2

/-- Every page is written: the step is in force. -/
def State.restoreDone (s : State) (r : RestoreRun) : State :=
  if r.pages.length < s.paramPages then s
  else
    let own := r.member = s.herd.self
    let s := (List.range s.paramPages).foldl (fun s pg =>
      s.setPage pg ((s.pageState pg &&& 0x1) ||| (if own then 0x0 else 0x8))) s
    let rec? := s.herd.recoveryValid && s.herd.recoveryStep = r.step
    let s : State := { s with
      train := { s.train with committed := r.step, undoOk := false, undecided := false, restore := none,
                              last := List.replicate 8 none },
      herd := { s.herd with barred := s.herd.barred && !rec?, recoveryValid := s.herd.recoveryValid && !rec? } }
    s.endPkt r.pkt .ok s.regions.paramSize r.step.toNat

def State.setRestore (s : State) (r : Option RestoreRun) : State := { s with train := { s.train with restore := r } }

/-- One page arrives. -/
def State.takePage (s : State) (r : RestoreRun) (pg : Nat) (b : List (BitVec 8)) : State :=
  let r := { r with pages := if r.pages.contains pg then r.pages else r.pages ++ [pg] }
  ((s.restoreWrite r.pkt pg b).setRestore (some r)).restoreDone r

def restoreBody : OpBody := {
  sel := selOp 0x59
  dec := fun s p => { offs := s.restoreOffs p }
  atDecode := fun s p => s.askRestore p
  body := fun s p =>
    match s.train.restore with
    | none => s
    | some r =>
      let s := s.modPkt p.id fun q => { q with wait := .herd }
      let s := s.setRestore (some { r with early := [] })
      r.early.foldl (fun s x => match s.train.restore with
        | some r => s.takePage r x.1 x.2
        | none => s) s }

def execRestore (h : Nat) (s : State) : Host.Outcome State Fault Refusal := s.onHopper h restoreBody

/-- RESTORE_PAGE: kept until the packet is dispatched. -/
def restorePage (page : Nat) (bytes : List (BitVec 8)) (s : State) : State :=
  match s.train.restore with
  | some r =>
    if !s.running || bytes.length != 65536 || page ≥ s.paramPages then s
    else if ((s.pkt r.pkt).map (·.stage)) = some .running then s.takePage r page bytes
    else s.setRestore (some { r with early := r.early ++ [(page, bytes)] })
  | none => s

def execRestorePage (page : Nat) (bytes : List (BitVec 8)) (s : State) : Host.Outcome State Fault Refusal :=
  noted (page < 114688) (restorePage page bytes s)

/-- The holder's answer; a complete step is sent page by page (R265). -/
def State.answerRestore (s : State) (x : Nat) (step : BitVec 64) : State :=
  let back (s : State) (vc : Nat) (name : String) (args : List Nat) (b : List (BitVec 8)) : State :=
    if s.herd.formed && x != s.herd.twinId then s.send vc x name args b else s.sendTwin vc name args b
  match s.train.held.find? fun c => c.complete && c.step = step with
  | none => back s 0 "RESTORE_ANSWER" [step.toNat, 0] []
  | some c =>
    c.dir.foldl (fun s d =>
      let (b, _, s) := s.rawRead { hint := .evictFirst } 2050 (s.frameAt d.2) 65536
      back s 2 "RESTORE_PAGE" [d.1] b) (back s 0 "RESTORE_ANSWER" [step.toNat, 1] [])

def restoreQuery (m : RestoreMsg) (s : State) : State :=
  if !s.running then s
  else
    match m with
    | .asked x step => s.answerRestore x step
    | .answered ok =>
      match s.train.restore with
      | some r =>
        if r.held then s
        else if ok then (s.setRestore (some { r with held := true })).modPkt r.pkt fun q => { q with wait := .none }
        else (s.setRestore none).endPkt r.pkt .badParam (offWord (4, 0)) 0
      | none => s
    | .unanswered =>
      match s.train.restore with
      | some r =>
        if r.held then s
        else match s.pkt r.pkt with
          | some p => (s.setRestore none).herdTimeout p s.twinName r.step
          | none => s.setRestore none
      | none => s

def restoreMsgOk : RestoreMsg → Bool
  | .asked x _ => x < 64
  | _ => true

def execRestoreQuery (msg : RestoreMsg) (s : State) : Host.Outcome State Fault Refusal :=
  noted (restoreMsgOk msg) (restoreQuery msg s)

/-! ### What the reserve shows (Table TRN-7, log 70) -/

/-- The page-state table: 4 bits per page, two pages a byte. -/
def State.pageTableByte (s : State) (i : Nat) : BitVec 8 :=
  let one (p : Nat) : Nat := if p < s.paramPages then (s.pageState p).toNat else 0
  BitVec.ofNat 8 (one (2 * i) + 16 * one (2 * i + 1))

/-- A directory: one 4-byte frame index per parameter page. -/
def State.dirByte (s : State) (slot i : Nat) : BitVec 8 :=
  let f := ((s.train.held.find? fun c => c.slot = slot).bind fun c => (c.dir.find? fun d => d.1 = i / 4).map (·.2)).getD 0
  BitVec.ofNat 8 (f >>> (8 * (i % 4)))

/-- A byte of the reserve that is not a frame; none for a frame byte or an address outside the reserve. -/
def State.reserveByte (s : State) (a : Nat) : Option (BitVec 8) :=
  match s.regions.ckptBase with
  | none => none
  | some b =>
    if a < b || a ≥ b + 0x200000 then none
    else
      let o := a - b
      if o < 0x10000 then some (Config.openByte s.free o)
      else if o < 0x20000 then some (s.pageTableByte (o - 0x10000))
      else if o < 0x1A0000 then some (s.dirByte ((o - 0x20000) / 0x80000) ((o - 0x20000) % 0x80000))
      else some 0

end Sys2Proof.Machine
end

