-- ==== Sys2Proof/Machine/Herd.lean ====
section
/-!
DEFINITION. Twins and the herd: verdict, loss and takeover, formation, time, leaving (10 R280 to R301).
-/
namespace Sys2Proof.Machine

/-- ALERT_STATUS bits rise (12 Table PWR-11). -/
def State.alert (s : State) (i : Nat) : State :=
  { s with aon := { s.aon with alert := s.aon.alert ||| BitVec.ofNat 8 (2 ^ i) } }

/-! ### Loss of a member (R284, R290, R299) -/

/-- The device's CHECKPOINT to a lost twin ends (09 When it goes wrong of R265). -/
def State.ckptLost (s : State) (x : Nat) : State :=
  match s.train.ckpt with
  | some c =>
    if s.herd.twinId = x then
      match s.pkt c.pkt with
      | some p => s.dropCkpt.herdTimeout p x c.step
      | none => s.dropCkpt
    else s
  | none => s

/-- The holder of this device's checkpoints has changed. -/
def State.newHolder (s : State) : State :=
  ({ s with train := { s.train with mirror := [] } }).refreshTwinCkpt

/-- The device that answers for herd ID x is lost: LOST_MASK, and with it the routes; a lost leader's place goes to the lowest
member not lost (R284, R290). -/
def State.markLost (s : State) (x : Nat) : State :=
  let hd := { s.herd with lost := s.herd.lost ||| BitVec.ofNat 64 (2 ^ x) ||| BitVec.ofNat 64 (2 ^ s.herd.deviceOf x) }
  { s with herd := if hd.leader = x then { hd with leader := hd.live.headD hd.leader } else hd }

/-- A spare answers to a lost herd ID (R299, R300). The spare hears of the loss here (log 128). -/
def State.onTakeover (s : State) (lost spare : Nat) : State :=
  if !s.herd.formed || (s.herd.entry lost).isNone || (s.herd.entry spare).isNone then s
  else
    let s := if s.herd.isLost (s.herd.deviceOf lost) then s else s.markLost lost
    let twin := match s.herd.entry lost with | some e => e.twin | none => 0xFF
    let me := s.herd.device = spare
    let s : State := { s with herd := { s.herd with
      spareMap := s.herd.spareMap.set lost spare, retired := s.herd.retired ++ [spare],
      self := if me then lost else s.herd.self } }
    let s := s.herdEvent 1
    if me then ({ s with herd := { s.herd with logicalTwin := some twin, keepAlive := true } }).newHolder
    else if s.herd.self = twin then ({ s with herd := { s.herd with logicalTwin := some lost, keepAlive := true } }).newHolder
    else s

/-- The present spare with the lowest herd ID. -/
def Herd.nextSpare (hd : Herd) : Option Nat :=
  (List.range 64).find? fun x => match findEntry hd.entries x with
    | some e => e.spare && !hd.retired.contains x && !hd.absent.contains x && !hd.isLost x
    | none => false

/-- The device's own STATE reaches the leader (R258, log 66). -/
def State.tellState (s : State) : State :=
  let m := s.ownState
  if s.isLeader then s.onState m
  else s.send 0 s.herd.leader "STATE" [m.x, m.committed.toNat, b2n m.undecided,
    match m.log with | some l => logCode l + 1 | none => 0]

/-- Herd ID x is a device of the herd that is not known to be lost. -/
def State.canLose (s : State) (x : Nat) : Bool :=
  s.herd.formed && (s.herd.entry x).isSome && !s.herd.isLost (s.herd.deviceOf x)

/-- What follows the loss of x, which led the herd when `led` is set: STATE to a new leader; at the leader the commit in
progress and the spare. -/
def State.afterLoss (s : State) (x : Nat) (led : Bool) : State :=
  let s := s.herdEvent 0
  let s :=
    if led && s.herd.leader != x then
      ({ s with herd := { s.herd with lead := none, resolving := s.isLeader, states := [] } } : State).tellState
    else s
  if !s.isLeader then s
  else
    let s := match s.herd.lead with
      | some l => s.decideRollback (l.step - 1)
      | none => s
    match s.herd.nextSpare with
    | some sp =>
      if s.herd.members.contains x then
        (s.sendAll 0 (s.herd.entries.map (·.id)) "TAKEOVER" [x, sp]).onTakeover x sp
      else s
    | none => s

/-- MEMBER_LOST (R284). -/
def State.onMemberLost (s : State) (x : Nat) : State :=
  if s.canLose x then (s.ckptLost x |>.markLost x).afterLoss x (s.herd.leader = x) else s

/-- The twin, the logical twin or the leader of herd ID x finds it lost: every member hears of it over the routes that remain
(R284). -/
def State.partnerLost (s : State) (x : Nat) : State :=
  if s.canLose x then
    let t := (s.ckptLost x).markLost x
    (t.sendAll 0 (t.herd.members.filter fun y => y != x) "MEMBER_LOST" [x]).afterLoss x (s.herd.leader = x)
  else s

/-- A logical twin that is not heard is lost as soon as no route reaches it (R300). -/
def State.keepAliveLost (s : State) : State :=
  if s.running && s.herd.formed && s.herd.logicalTwin.isSome && !s.herd.keepAlive && (s.route s.herd.twinId).isNone then
    s.partnerLost s.herd.twinId
  else s

/-- A sideband fault: heartbeat absent while port 0 is UP (Table HRD-4). -/
def State.sideband (s : State) : Bool := !s.pins.failIn && s.hbAbsent && portUp (s.port 0)

/-- The verdict after a change of its inputs (R283): `s` before, `t` after. -/
def State.judgeTwin (s t : State) : State :=
  let now := t.twinLost
  let was := s.verdictLost
  let t := if t.sideband && !s.sideband then
      t.log 0x22 0x48 none (b2n t.pins.failIn + 2 * b2n t.pins.hbIn + 4 * b2n (portUp (t.port 0))) 0
    else t
  let t : State := { t with verdictLost := now }
  let t := if now && !was then (t.alert 3).partnerLost t.herd.pairId else t
  t.keepAliveLost

/-! ### Formation (R285 to R292) -/

def State.setForming (s : State) (f : Option Forming) : State := { s with herd := { s.herd with forming := f } }

/-- HERD_FORM ends without a herd; the cause is logged (R288 When it goes wrong). -/
def State.formFail (s : State) (f : Forming) (code x : Nat) : State :=
  let s := ({ s.setForming none with herd := { s.herd with forming := none, offers := [] } }).log 0x23 0x40 none code x
  if code = 0 then
    match s.pkt f.pkt with
    | some p => s.herdTimeout p x
    | none => s
  else s.endPkt f.pkt .herdMismatch code x

/-- This device's OFFER. -/
def State.ownOffer (s : State) (f : Forming) : Offer :=
  { x := f.self, manifest := f.bytes, fw := s.image.fw, configHash := s.configHash, tree := s.image.tree, tileLog2 := 10,
    partShape := s.partShape f.part, seedMix := mix64 (s.part f.part).seed, hasRegion := s.regions.paramSize != 0,
    committed := s.train.committed, undoOk := s.train.undoOk, undecided := s.train.undecided, log := s.train.lastLog,
    formCount := s.herd.formCount, time := s.time }

/-- Codes 0x01 to 0x08 and 0x0D over the devices heard: code and lowest herd ID concerned. `os` rises by herd ID. -/
def formFindings (os : List Offer) (isMember : Nat → Bool) : List (Nat × Nat) :=
  let bad (code : Nat) (f : Offer → Bool) : List (Nat × Nat) :=
    match os.find? f with | some o => [(code, o.x)] | none => []
  let ms := os.filter fun o => isMember o.x
  let ref := (ms.head?.map (·.manifest)).getD []
  let masked (m : List (BitVec 8)) : List (BitVec 8) := m.take 0x10 ++ m.drop 0x15
  let seed := ms.head?.map (·.seedMix)
  bad 1 (fun o => o.fw.toNat != mfFw o.manifest) ++ bad 2 (fun o => o.configHash.toNat != mfHash o.manifest) ++
  bad 3 (fun o => mfPolicy o.manifest != mfPolicy ref) ++ bad 4 (fun o => mfSr o.manifest != mfSr ref) ++
  bad 5 (fun o => o.tree != mfTree o.manifest) ++ bad 6 (fun o => o.tileLog2 != mfTile o.manifest) ++
  bad 7 (fun o => o.partShape.toNat != mfShape o.manifest) ++ bad 8 (fun o => masked o.manifest != masked ref) ++
  (match ms.find? fun o => some o.seedMix != seed with | some o => [(0xD, o.x)] | none => [])

/-- Offers by rising herd ID. -/
def sortOffers (os : List Offer) : List Offer :=
  (List.range 64).filterMap fun x => os.find? fun o => o.x = x

/-- WIRING and TWIN from the LINK_IDs of the ports in use (R288). -/
def State.wiring (s : State) (es : List Entry) (self : Nat) : List (Nat × Nat) :=
  match findEntry es self with
  | none => []
  | some e => [0, 1, 2, 3].flatMap fun p =>
      match findEntry es (e.far p), (s.port p).far with
      | some d, some l => if l.serial = d.serial && l.port = farPortOf p then [] else [((if p = 0 then 0xA else 9), self)]
      | _, _ => []

/-- Every port that the manifest uses is UP and has its LINK_ID. -/
def State.portsReady (s : State) (es : List Entry) (self : Nat) : Bool :=
  match findEntry es self with
  | none => false
  | some e => [0, 1, 2, 3].all fun p => (findEntry es (e.far p)).isNone || (portUp (s.port p) && (s.port p).far.isSome)

def lowestFinding : List (Nat × Nat) → Option (Nat × Nat)
  | [] => none
  | x :: t => match lowestFinding t with
    | some y => if y.1 < x.1 ∨ (y.1 = x.1 ∧ y.2 < x.2) then some y else some x
    | none => some x

/-- An UNDECIDED member has flipped its pages and waits for DONE or ROLLBACK. -/
def offerFlipped (o : Offer) : Bool := o.undecided && o.log = some .provisional

/-- A member's step once R258 has settled it: DONE where some member logged FINAL for the step it flipped to, else ROLLBACK. -/
def settledOffer (ms : List Offer) (o : Offer) : Offer :=
  if offerFlipped o && !(ms.any fun m => m.log = some .final && m.committed = o.committed) then
    { o with committed := o.committed - 1, undoOk := false }
  else o

/-- Step state of members already settled (R291): every PENDING clears, a member one step ahead rolls back, one further ahead
refuses. -/
def stepFinding (ms : List Offer) : Option Nat × Nat :=
  let rs := ms.filter (·.hasRegion)
  let steps := rs.map fun o => o.committed.toNat
  let lo := steps.foldl min (steps.headD 0)
  ((rs.find? fun o => !(o.committed.toNat = lo || (o.committed.toNat = lo + 1 && o.undoOk))).map (·.x), lo)

/-- UNDECIDED members are settled as a formation completes (R291): the leader sends each its DONE or ROLLBACK, and a member acts
on what all the offers show (log 109). -/
def State.settleForm (s : State) (self lead : Nat) (ms : List Offer) : State :=
  let s := (ms.filter (·.undecided)).foldl (fun s o =>
    let t := (settledOffer ms o).committed
    if lead != self || o.x = self then s
    else if offerFlipped o && t = o.committed then s.send 0 o.x "DONE" [t.toNat, (s.token t).toNat]
    else s.send 0 o.x "ROLLBACK" [t.toNat]) s
  match ms.find? fun o => o.x = self with
  | some o =>
    let t := (settledOffer ms o).committed
    if !o.undecided then s
    else if offerFlipped o && t = o.committed then
      let token := match s.train.commit with | some c => c.token | none => s.token t
      let s := (s.setCommit none).sendLog token t .final
      { s with train := { s.train with undecided := false } }
    else s.onRollback t
  | none => s

/-- Formation completes (Table HRD-8 steps 4 to 7). -/
def State.formed (s : State) (f : Forming) (es : List Entry) (os : List Offer) (lo : Nat) (absent : List Nat) : State :=
  let ms := (List.range 64).filter fun x => match findEntry es x with | some e => !e.spare | none => false
  let lead := ms.headD 0
  let lo' := BitVec.ofNat 64 lo
  let lo := os.find? fun o => o.x = lead
  let s := s.settleForm f.self lead (os.filter fun o => ms.contains o.x)
  let s := if s.regions.paramSize = 0 then s
    else (if s.train.committed = lo' + 1 && s.train.undoOk then s.undoStep else s).clearPending
  let s : State := { s with
    time := if lead = f.self then s.time else (lo.map (·.time)).getD s.time,
    frac := if lead = f.self then s.frac else 0,
    herd := { s.herd with
      formed := true, dissolved := false, drift := false, part := f.part, self := f.self, device := f.self, leader := lead,
      formCount := (lo.map (·.formCount)).getD 0 + 1, offset := 0, calm := 0, lost := 0, recoveryStep := 0,
      recoveryValid := false, barred := false, stranded := false, spareMap := List.replicate 64 0xFF, header := f.bytes.take 64, entries := es,
      absent := absent, retired := [], forming := none, offers := [], lead := none, states := [], resolving := false,
      redCount := 0, gatCount := 0, closeCount := 0, colls := [], joins := [], closes := [], closeMsgs := [],
      logicalTwin := none, keepAlive := true },
    ports := s.ports.mapIdx fun p k =>
      { k with farId := match findEntry es f.self with | some e => e.far p | none => 0xFF } }
  s.endPkt f.pkt .ok (lead + 256 * ms.length) (ms.foldl (fun n x => n + 2 ^ x) 0)

/-- Formation goes as far as what has been heard allows; `late` once TIMEOUT has passed (R289). -/
def State.formTry (s : State) (late : Bool) : State :=
  match s.herd.forming with
  | none => s
  | some f =>
    let es := entriesOf f.bytes
    let heard := sortOffers ((s.herd.offers.filter fun o => o.x != f.self) ++ [s.ownOffer f])
    let missing := (List.range 64).filter fun x => (findEntry es x).isSome && !heard.any fun o => o.x = x
    let isMember (x : Nat) : Bool := match findEntry es x with | some e => !e.spare | none => false
    let gone := missing.filter isMember
    if !s.portsReady es f.self then
      if late then s.formFail f 0 (gone.headD f.self) else s
    else
      match lowestFinding (s.wiring es f.self) with
      | some (c, x) => s.formFail f c x
      | none =>
        let s := if f.sent then s
          else
            let s := s.setForming (some { f with sent := true })
            let o := s.ownOffer f
            (((es.map (·.id)).filter fun x => x != f.self)).foldl (fun s x =>
              s.send 0 x "OFFER" [o.x, o.fw.toNat, o.configHash.toNat, o.tree, o.tileLog2, o.partShape.toNat, o.seedMix.toNat,
                b2n o.hasRegion, o.committed.toNat, b2n o.undoOk, b2n o.undecided,
                match o.log with | some l => logCode l + 1 | none => 0, o.formCount.toNat, o.time.toNat] o.manifest) s
        if gone != [] then (if late then s.formFail f 0 (gone.headD 0) else s)
        else if missing != [] && !late then s
        else
          let os := heard.filter fun o => (findEntry es o.x).isSome
          match lowestFinding (formFindings os isMember) with
          | some (c, x) => s.formFail f c x
          | none =>
            let ms := os.filter fun o => isMember o.x
            match stepFinding (ms.map (settledOffer ms)) with
            | (some x, _) => s.formFail f 0xB x
            | (none, lo) => s.formed f es os lo missing

/-- Offences of HERD_FORM (Table OPC-12). -/
def State.formOffs (s : State) (p : Pkt) : List Off :=
  let m := field (p.w 2) 14 8
  off s.herd.formed 0 0 ++ off (m = 0 || m > 64) 2 8 ++ rsv p 2 0x7F3F ++ off (p.w 3 = 0 || p.w 3 > 60000) 3 0 ++
  rsv p 5 0xFF ++ rsv p 6 0x7 ++ rsvAll p 7 16 []

/-- Table HRD-8 step 1: the manifest is read and checked. -/
def State.formStart (s : State) (p : Pkt) : State :=
  let a := p.a40 4
  let self := p.w 2 % 64
  let src : Src := { part := some p.part, pkt := some p.id }
  let (hd, e0, s) := s.readBytes src a 64
  let n := byteAt hd 1 1
  let (es, e1, s) := s.readBytes src (a + 64) (32 * min n 64)
  let m := hd ++ es
  let found :=
    (if s.noTwin then [(0xA, self)] else []) ++
    (match findEntry (entriesOf m) self with
     | some e => if e.serial = Config.serial then [] else [(0xC, self)]
     | none => [(0xC, self)]) ++
    (if e0.isSome || e1.isSome || !manifestOk m (field (p.w 2) 14 8) then [(0xE, self)] else [])
  let f : Forming := { pkt := p.id, self := self, members := field (p.w 2) 14 8, part := p.w 6 % 8, bytes := m }
  match lowestFinding found with
  | some (c, x) => s.formFail f c x
  | none => ((s.setForming (some f)).modPkt p.id fun q => { q with wait := .herd }).formTry false

def formBody : OpBody := {
  sel := selOp 0x60
  dec := fun s p =>
    let n := 64 + 32 * min (s.peekByte (p.a40 4 + 1)).toNat 64
    { offs := s.formOffs p, extents := [(p.a40 4, n)], reach := [(flat (p.a40 4) n, false)] }
  body := fun s p => s.formStart p
  resume := fun s _ => s.formTry false }

def execHerdForm (h : Nat) (s : State) : Host.Outcome State Fault Refusal := s.onHopper h formBody

/-- OFFER: kept; formation goes on. -/
def execOffer (o : Offer) (s : State) : Host.Outcome State Fault Refusal :=
  noted (o.x < 64) (if !s.running || s.herd.formed then s
    else ({ s with herd := { s.herd with offers := (s.herd.offers.filter fun (y : Offer) => y.x != o.x) ++ [o] } }).formTry false)

/-- FORM_TIMEOUT: a MEMBER is missing, or the missing SPAREs are recorded as absent (R289). -/
def execFormTimeout (s : State) : Host.Outcome State Fault Refusal := noted true (if s.running then s.formTry true else s)

/-! ### Leaving (R293) -/

/-- Herd opcodes that wait end (R293). -/
def State.endHerdOps (s : State) : State :=
  let ids := (s.herd.colls.map (·.pkt)) ++ (s.herd.closes.map (·.pkt)) ++
    (match s.train.commit with | some c => c.pkt.toList | none => [])
  let s := ids.foldl (fun s i => match s.pkt i with
    | some p => if p.stage = .ended then s else s.herdTimeout p s.herd.leader
    | none => s) s
  -- a herd context whose close is given up is open again
  let s := s.herd.closes.foldl (fun s c => s.modCtx c.handle fun x =>
    if x.st = .closing then { x with st := x.heldSt } else x) s
  -- a member left UNDECIDED keeps what it flipped, for the herd that settles it
  s.setCommit (if s.train.undecided then s.train.commit.map fun c => { c with pkt := none } else none)

/-- The herd is gone on this device. -/
def State.dissolve (s : State) : State :=
  if !s.herd.formed then s
  else
    let s := s.endHerdOps
    let s : State := { s with
      herd := { s.herd with formed := false, dissolved := true, drift := false, lead := none, states := [], resolving := false,
                            colls := [], joins := [], closes := [], closeMsgs := [], logicalTwin := none, barred := false,
                            stranded := false, recoveryValid := false },
      ports := s.ports.map fun k => { k with farId := 0xFF } }
    s.herdEvent 4

def leaveBody : OpBody := {
  sel := selOp 0x61
  dec := fun s p => { offs := off (!s.herd.formed) 0 0 ++ rsvAll p 2 16 [] }
  body := fun s p => ((s.sendAll 0 (s.herd.entries.map (·.id)) "DISSOLVE" []).dissolve).endPkt p.id .ok 0 0 }

def execHerdLeave (h : Nat) (s : State) : Host.Outcome State Fault Refusal := s.onHopper h leaveBody
def execDissolve (s : State) : Host.Outcome State Fault Refusal := noted true (if s.running then s.dissolve else s)

/-! ### Messages and the twin's sideband -/

def execMemberLost (x : Nat) (s : State) : Host.Outcome State Fault Refusal :=
  noted (x < 64) (if s.running then s.onMemberLost x else s)
def execTakeover (lost spare : Nat) (s : State) : Host.Outcome State Fault Refusal :=
  noted (lost < 64 && spare < 64) (if s.running then s.onTakeover lost spare else s)

/-- Steps complete at the holder of herd ID x: this device's own where it holds them, else as its leader has learnt. -/
def State.stepsHeld (s : State) (known : List (Nat × List (BitVec 64))) (x : Nat) : List (BitVec 64) :=
  if x = s.herd.twinId then (complete s.train.held).map (·.step)
  else ((known.find? fun k => k.1 = x).map (·.2)).getD []

/-- Source from which herd ID x restores: itself where its holder still holds a checkpoint, else the lowest other ID of its
REPLICA group whose holder does (R301, log 36). -/
def State.sourceOf (s : State) (known : List (Nat × List (BitVec 64))) (x : Nat) : Option Nat :=
  let has (y : Nat) : Bool := s.stepsHeld known y != []
  let group (y : Nat) : Nat := match s.herd.entry y with | some e => e.replica | none => 0xFF
  if has x then some x
  else s.herd.members.find? fun y => y != x && group x != 0xFF && group y = group x && has y

/-- The recovery step: the highest step complete at every holder used; none where a member has no source (R259, R301). -/
def State.recoveryPlan (s : State) (known : List (Nat × List (BitVec 64))) : Option (BitVec 64) :=
  let used := s.herd.members.map fun x => (s.sourceOf known x).map (s.stepsHeld known)
  let common (c : BitVec 64) : Bool := used.all fun l => match l with | some l => l.contains c | none => false
  ((used.filterMap id).flatten.filter common).foldl (fun best c => match best with
    | some b => if b < c then some c else some b
    | none => some c) none

/-- RECOVER takes effect (R301): collectives and updates are barred until RESTORE; without a step herd opcodes no longer
complete (Table HRD-9, last row). -/
def State.onRecover (s : State) (step : Option (BitVec 64)) : State :=
  let s : State := { s with herd := { s.herd with
    recoveryStep := step.getD s.herd.recoveryStep, recoveryValid := step.isSome, barred := step.isSome || s.herd.barred,
    stranded := step.isNone } }
  s.herdEvent 6

def recoverHerd (m : RecoverMsg) (s : State) : State :=
  if !s.herd.formed then s
  else
    match m with
    | .decided known =>
      if s.isLeader then
        let step := s.recoveryPlan known
        (s.sendAll 0 s.herd.members "RECOVER" (match step with | some c => [c.toNat] | none => [])).onRecover step
      else s
    | .heard step => if s.isLeader then s else s.onRecover step
def execRecover (msg : RecoverMsg) (s : State) : Host.Outcome State Fault Refusal :=
  noted true (if s.running then recoverHerd msg s else s)

/-- LINK_ID (R280, 12 R345): twin agreement on port 0, wiring of a formation. -/
def linkIdMsg (p : Nat) (info : LinkInfo) (s : State) : State :=
  let s := s.modPort p fun k => { k with far := some info, farPort := info.port }
  let s :=
    if p = 0 && s.pwr.twinAbsent then
      if info.fw = s.image.fw && info.tree = s.image.tree then
        { s with pwr := { s.pwr with twinAbsent := false, hbArmed := true } }
      else
        ({ s with pwr := { s.pwr with twinDisagree := true } }).log 0x24 0x30 none
          (b2n (info.fw != s.image.fw) + 2 * b2n (info.tree != s.image.tree)) 0
    else s
  s.formTry false
def execLinkId (p : Nat) (info : LinkInfo) (s : State) : Host.Outcome State Fault Refusal :=
  noted (p < 4 && info.port < 4) (if s.running && (s.port p).state != 0 then s.judgeTwin (linkIdMsg p info s) else s)

/-- The verdict follows a change (R283). -/
def State.onTwin (s : State) (ok : Bool) (f : State → State) : Host.Outcome State Fault Refusal :=
  noted ok (if s.mode = .off || s.mode = .aonWait then s else s.judgeTwin (f s))

def execHeartbeatEdge (s : State) : Host.Outcome State Fault Refusal :=
  s.onTwin true fun s => { s with pins := { s.pins with hbIn := true }, herd := { s.herd with hbInForce := s.herd.hbTimeout } }
def execHeartbeatTimeout (s : State) : Host.Outcome State Fault Refusal :=
  s.onTwin true fun s => { s with pins := { s.pins with hbIn := false }, herd := { s.herd with hbInForce := s.herd.hbTimeout } }
def execTwinFailInAssert (s : State) : Host.Outcome State Fault Refusal :=
  s.onTwin true fun s => { s with pins := { s.pins with failIn := true } }
def execTwinFailInRelease (s : State) : Host.Outcome State Fault Refusal :=
  s.onTwin true fun s => { s with pins := { s.pins with failIn := false } }

/-- This device has a logical twin (R300). -/
def State.logicalPair (s : State) : Bool := s.running && s.herd.formed && s.herd.logicalTwin.isSome

/-- TWIN_HB_OUT (R281): in every state but OFF, and not before the AON island is ready. Its period of 61.035 µs is that of the
KEEPALIVEs: one goes to a logical twin with each rising edge (R300, log 110). -/
def hbOutToggle (s : State) : State :=
  if s.mode = .off || s.mode = .aonWait then s
  else
    let s : State := { s with pins := { s.pins with hbOut := !s.pins.hbOut } }
    if s.pins.hbOut && s.logicalPair then s.send 0 s.herd.twinId "KEEPALIVE" [] else s
def execTwinHbOutToggle (s : State) : Host.Outcome State Fault Refusal := noted true (hbOutToggle s)

/-- KEEPALIVE from the logical twin (R300). -/
def execKeepalive (s : State) : Host.Outcome State Fault Refusal :=
  bounded true (if s.logicalPair then { s with herd := { s.herd with keepAlive := true } } else s)
def execKeepaliveTimeout (noRoute : Bool) (s : State) : Host.Outcome State Fault Refusal :=
  noted true (if s.running && s.herd.formed && s.herd.logicalTwin.isSome then
    let s : State := { s with herd := { s.herd with keepAlive := false } }
    if noRoute then s.partnerLost s.herd.twinId else s.keepAliveLost
  else s)

/-! ### Ports as commands -/

def execFlitReceive (p : Nat) (flit : List (BitVec 8)) (s : State) : Host.Outcome State Fault Refusal :=
  noted (p < 4) (flitReceive p flit s)
def execNakReceive (p ack : Nat) (s : State) : Host.Outcome State Fault Refusal :=
  noted (p < 4 && ack < 4096) (nakReceive p ack s)
def execAckTimeout (p : Nat) (s : State) : Host.Outcome State Fault Refusal := noted (p < 4) (ackTimeout p s)
def execResendLimit (p : Nat) (s : State) : Host.Outcome State Fault Refusal := s.onTwin (p < 4) (resendLimit p)
/-- A member left UNDECIDED answers its leader again once a port of its comes UP (09 R257, Table TRN-6, log 66). -/
def State.answerAgain (s : State) : State := if s.herd.formed && s.train.undecided && !s.isLeader then s.tellState else s

def execPortTrainingDone (p : Nat) (r : TrainResult) (s : State) : Host.Outcome State Fault Refusal :=
  s.onTwin (p < 4) fun s =>
    let t := (portTrained p r s).formTry false
    if portUp (t.port p) && !portUp (s.port p) then t.answerAgain else t
def execTrainingTimeout (p : Nat) (s : State) : Host.Outcome State Fault Refusal := s.onTwin (p < 4) (trainTimeout p)
def execBlockLockLoss (p : Nat) (s : State) : Host.Outcome State Fault Refusal := s.onTwin (p < 4) (blockLockLoss p)

/-! ### Herd time (R295 to R297) -/

/-- The counter in ns, as SYNC carries it. -/
def State.nowNs (s : State) : Nat := s.now.toNat * 10 + s.frac.toNat * 10 / 65536

/-- SYNC_TIMER: an exchange with the next hop toward the leader begins, with t1. -/
def execSyncTimer (s : State) : Host.Outcome State Fault Refusal :=
  noted true (if s.running && s.herd.formed && !s.isLeader then
    match s.route s.herd.leader with
    | some p => s.sendPort p { vc := 0, name := "SYNC", args := [s.nowNs] }
    | none => s
  else s)

/-- The parent's side: t2 is the arrival, t3 is taken as the answer goes back to the child on port p (R295). -/
def State.answerSync (s : State) (p : Nat) (t1 t2 : Int) : State :=
  if s.herd.formed then s.sendPort p { vc := 0, name := "SYNC_ANSWER", args := [t1.toNat, t2.toNat, s.nowNs] } else s

/-- The child's side: the offset, and DRIFT (R295, R297). -/
def syncMsg (t1 t2 t3 t4 : Int) (s : State) : State :=
  if !s.herd.formed || s.isLeader then s
  else
    let th := ((t2 - t1) - (t4 - t3)) / 2
    let calm := if th.natAbs ≤ 100 then s.herd.calm + 1 else 0
    let drift := if th.natAbs > 200 then true else if calm ≥ 4 then false else s.herd.drift
    let was := s.herd.drift
    let s : State := { s with herd := { s.herd with offset := th, calm := min calm 4, drift := drift } }
    if drift && !was then s.herdEvent 2 else if was && !drift then s.herdEvent 3 else s
/-- SYNC on port p, in ns: a child's, with t1 and its arrival here, or the parent's answer, with t2, t3 and its arrival. -/
def execSync (p : Nat) (t1 : Int) (answer : Option (Int × Int)) (arrived : Int) (s : State) :
    Host.Outcome State Fault Refusal :=
  noted (p < 4) (if !s.running then s
    else match answer with
      | none => s.answerSync p t1 arrived
      | some (t2, t3) => syncMsg t1 t2 t3 arrived s)

end Sys2Proof.Machine
end

