-- ==== Sys2Proof/Machine/Coll.lean ====
section
/-!
DEFINITION. Collectives of the herd partition and the tree of a herd context (09 R237 to R244, 10 R302 to R304).
-/
namespace Sys2Proof.Machine

/-! ### Fields -/

/-- A reduction's fields. -/
structure Red where
  mode : Nat
  rnd : Nat
  mean : Bool
  d : Desc
  drnd : Nat
  base : Nat
  size : Nat
  dest : Nat
  scatter : Bool
  keyBase : BitVec 64

def redOf (p : Pkt) : Red :=
  { mode := p.w 2 % 4, rnd := field (p.w 2) 3 2, mean := bit (p.w 2) 4, d := descOf (p.w 3), drnd := field (p.w 3) 7 4,
    base := p.a40 4, size := p.a40 6, dest := p.a40 8, scatter := p.op = 0x4A,
    keyBase := BitVec.ofNat 64 (p.q 12 + p.w 14) }

def Red.elems (r : Red) : Nat := 65536 / r.d.fmt.bytes

/-- Position of a member in ascending herd ID (R243). -/
def Herd.rank (hd : Herd) (x : Nat) : Nat := (hd.members.filter fun y => y < x).length

/-- The member bitmap (R183). -/
def Herd.bitmap (hd : Herd) : Nat := hd.members.foldl (fun n x => n + 2 ^ x) 0

def State.redOffs (s : State) (p : Pkt) : List Off :=
  let r := redOf p
  let n := max s.herd.members.length 1
  let armed := s.replay.armed.isSome
  off s.herd.barred 0 0 ++
  off (r.mode = 3) 2 0 ++ srFreeOffs armed r.rnd 2 2 ++ off (s.srBad p.part r.rnd) 2 2 ++ rsv p 2 0x1F ++
  fmtOffs p 3 ++ off (p.w 3 % 16 > 2 || s.fmtBad p.part (p.w 3 % 16)) 3 0 ++
  srFreeOffs armed r.drnd 3 4 ++ off (s.srBad p.part r.drnd) 3 4 ++
  off (r.base % 65536 != 0) 4 0 ++ rsv p 5 0xFF ++
  off (r.size < 4 * 2 ^ 20 || r.size > 256 * 2 ^ 20 || r.size % 65536 != 0 || (r.scatter && r.size % (n * 65536) != 0)) 6 0 ++
  rsv p 7 0xFF ++
  (if r.scatter then off (r.dest % r.d.fmt.bytes != 0) 8 0 ++ rsv p 9 0xFF else rsv p 8 0 ++ rsv p 9 0) ++
  rsv p 10 0 ++ rsv p 11 0 ++ rsv p 15 0

def State.redDec (s : State) (p : Pkt) : Dec :=
  let r := redOf p
  let n := max s.herd.members.length 1
  let ops := (flat r.base r.size, !r.scatter) :: (if r.scatter then [(flat r.dest (r.size / n), true)] else [])
  { offs := s.redOffs p, extents := ops.map fun x => (x.1.base, x.1.len), reach := ops }

def State.gatherDec (s : State) (p : Pkt) : Dec :=
  let a := p.a40 4
  let n := p.a40 6
  let ops := [(flat a n, false), (flat (p.a40 8) (n * max s.herd.members.length 1), true)]
  { offs := rsv p 2 0 ++ rsv p 3 0 ++ off (a % 65536 != 0) 4 0 ++ rsv p 5 0xFF ++
      off (n = 0 || n % 65536 != 0) 6 0 ++ rsv p 7 0xFF ++ rsv p 9 0xFF ++ rsvAll p 10 16 [],
    extents := ops.map fun x => (x.1.base, x.1.len), reach := ops }

/-! ### The tree over members (R237, R240) -/

/-- Members below node (h, q). -/
def Herd.below (hd : Herd) (h q : Nat) : List Nat := hd.members.filter fun x => x / 2 ^ h = q

/-- The member that forms node (h, q): the lowest below it. -/
def Herd.former (hd : Herd) (h q : Nat) : Option Nat := (hd.below h q).head?

/-- Nodes that are sent to member x, level and place, with the members that send them: the siblings of the nodes it forms. -/
def Herd.kidNodes (hd : Herd) (x : Nat) : List (Nat × Nat × Nat) :=
  (List.range 6).filterMap fun h =>
    let q := x / 2 ^ h
    let sib := if q % 2 = 0 then q + 1 else q - 1
    if hd.former (h + 1) (q / 2) = some x then (hd.former h sib).map fun y => (h, sib, y) else none
def Herd.kids (hd : Herd) (x : Nat) : List Nat := (hd.kidNodes x).map (·.2.2)

/-- The member to which x sends its node, and from which it gets the result. -/
def Herd.parentOf (hd : Herd) (x : Nat) : Option Nat :=
  (List.range 6).findSome? fun h => (hd.former (h + 1) (x / 2 ^ (h + 1))).filter fun y => y != x

/-- A pair as a node of a sum. -/
def pairNode (p : Pair) : Node := { ws := [p] }

def nodePair (n : Node) : Pair := n.ws.headD (negZero32, negZero32)

/-- Two children of node (h, q) combined, element by element from index e on (R238, R239). -/
def combLists (mode : Nat) (key : Key) (h q : Nat) : Nat → List Pair → List Pair → List Pair × Flags
  | e, a :: as, b :: bs =>
    let (c, f) := combNodes (.sum 1) (if mode = 0 then 0 else 2) key (64 * e + q) (31 + h) 1 (pairNode a) (pairNode b)
    let (r, f') := combLists mode key h q (e + 1) as bs
    (nodePair c :: r, f.or f')
  | _, _, _ => ([], {})

/-- The root's values rounded to FMT (R238, R239). -/
def rootBits (r : Red) (n : Nat) (key : Key) : Nat → List Pair → List Nat × Flags
  | _, [] => ([], {})
  | e, p :: t =>
    let v := pairVal p
    let v := if r.mean then v.div (.ofNat n) else v
    let (b, f) := r.d.write (key.at e 0 3 0) v
    let (bs, f') := rootBits r n key (e + 1) t
    (b :: bs, f.or f')

/-! ### Packets in the herd -/

def State.modColl (s : State) (id : Nat) (f : Coll → Coll) : State :=
  { s with herd := { s.herd with colls := s.herd.colls.map fun c => if c.pkt = id then f c else c } }
def State.dropColl (s : State) (id : Nat) : State :=
  { s with herd := { s.herd with colls := s.herd.colls.filter fun c => c.pkt != id } }
def State.coll (s : State) (id : Nat) : Option Coll := s.herd.colls.find? fun c => c.pkt = id

/-- At decode the packet takes its place in the order of its kind (R241). -/
def State.enrol (s : State) (p : Pkt) (gather : Bool) : State :=
  let k := if gather then s.herd.gatCount else s.herd.redCount
  { s with herd := { s.herd with
      redCount := if gather then s.herd.redCount else k + 1, gatCount := if gather then k + 1 else s.herd.gatCount,
      colls := s.herd.colls ++ [{ pkt := p.id, gather := gather, k := k }] } }

/-- The fields that every member must agree on (R241, R244). -/
def collFields (p : Pkt) (gather : Bool) : List Nat :=
  if gather then [p.a40 6] else [p.a40 6, p.w 3, p.w 2, p.q 12, p.w 14]

/-- A collective ends with an error. -/
def State.collFail (s : State) (id : Nat) (st : Status) (r0 : Nat) : State := (s.dropColl id).compFail id st r0

/-- Chunks of a packet. -/
def State.chunks (s : State) (p : Pkt) (c : Coll) : Nat :=
  if c.gather then s.herd.members.length * (p.a40 6 / 65536) else p.a40 6 / 65536

/-- Every chunk is written: the packet completes (R183, R242 to R244). -/
def State.collSettle (s : State) (p : Pkt) : State :=
  match s.coll p.id with
  | none => s
  | some c =>
    if c.done.length < s.chunks p c then s
    else
      let r := redOf p
      let n := s.herd.members.length
      let r0 := if c.gather then p.a40 6 * n else if r.scatter then r.size / n / r.d.fmt.bytes else r.size / r.d.fmt.bytes
      (s.dropColl p.id).endPkt p.id .ok r0 s.herd.bitmap

/-- The result of one chunk on this member: written in place, or into its shard; passed down (R240, R243). -/
def State.takeResult (s : State) (p : Pkt) (c : Coll) (chunk : Nat) (bytes : List (BitVec 8)) : State :=
  if c.done.contains chunk then s
  else
    let r := redOf p
    let per := r.size / max s.herd.members.length 1 / 65536
    let rank := s.herd.rank s.herd.self
    let s := (s.herd.kids s.herd.self).foldl (fun s y => s.send 1 y "RESULT" [c.k, chunk] bytes) s
    let w := if r.scatter then
        (if chunk / max per 1 = rank then s.writeBytes { part := some p.part, pkt := some p.id }
          (r.dest + (chunk - rank * per) * 65536) bytes else (none, s))
      else s.writeBytes { part := some p.part, pkt := some p.id } (r.base + chunk * 65536) bytes
    match w with
    | (some a, s) => s.collFail p.id .eccUncorr a
    | (none, s) => (s.modColl p.id fun c => { c with done := c.done ++ [chunk] }).collSettle p

/-- What a member does with the node it holds at level h: combine with the sibling it has heard, send up, or wait. -/
inductive Climb where
  | wait
  | up (dest h q : Nat) (vals : List Pair)
  | root (vals : List Pair)

def climb (hd : Herd) (r : Red) (key : Key) (x e0 : Nat) (heard : Nat → Nat → Option (List Pair)) :
    Nat → Nat → List Pair → Flags → Climb × Flags
  | 0, _, v, f => (.root v, f)
  | fuel + 1, h, v, f =>
    let q := x / 2 ^ h
    let sib := if q % 2 = 0 then q + 1 else q - 1
    match hd.former (h + 1) (q / 2), hd.below h sib with
    | _, [] => climb hd r key x e0 heard fuel (h + 1) v f
    | some y, _ =>
      if y = x then
        match heard h sib with
        | none => (.wait, f)
        | some w =>
          let (c, f') := combLists r.mode key (h + 1) (q / 2) e0 (if q % 2 = 0 then v else w) (if q % 2 = 0 then w else v)
          climb hd r key x e0 heard fuel (h + 1) c (f.or f')
      else (.up y h q v, f)
    | none, _ => (.wait, f)

/-- One chunk goes as far as the nodes heard allow (R237 to R242). -/
def State.chunkStep (s : State) (p : Pkt) (chunk : Nat) : State :=
  match s.coll p.id with
  | none => s
  | some c =>
    if !c.go || c.gather || c.sent.contains chunk then s
    else
      let r := redOf p
      let src : Src := { part := some p.part, pkt := some p.id }
      let (b, e, s) := s.readBytes src (r.base + chunk * 65536) 65536
      match e with
      | some a => s.collFail p.id .eccUncorr a
      | none =>
        let vs := (slices r.d.fmt.bytes r.elems b).map r.d.read
        let leaf : List Pair := vs.map fun v => (f32enc .rne v, negZero32)
        let e0 := chunk * r.elems
        let word := keyword p.seed r.keyBase
        let akey : Key := { mode := r.rnd, word := word, ctr := s.free }
        let okey : Key := { mode := r.drnd, word := word, ctr := s.free }
        let heard (h q : Nat) : Option (List Pair) :=
          (c.nodes.find? fun x => x.1 = chunk && x.2.1 = h && x.2.2.1 = q).map fun x => x.2.2.2
        match climb s.herd r akey s.herd.self e0 heard 6 0 leaf (nanSeenOf vs) with
        | (.wait, _) => s
        | (.up y h q v, f) =>
          let bytes := if h = 0 then b else v.flatMap fun x =>
            leBytes 4 x.1.toNat ++ (if r.mode = 0 then [] else leBytes 4 x.2.toNat)
          let s := ((s.draw).send 1 y "NODE" [c.k, chunk, h, q] bytes).addFlags p.id f
          s.modColl p.id fun c => { c with sent := c.sent ++ [chunk] }
        | (.root v, f) =>
          let (bits, f') := rootBits r s.herd.members.length okey e0 v
          let s := ((s.draw).addFlags p.id (f.or f')).modColl p.id fun c => { c with sent := c.sent ++ [chunk] }
          s.takeResult p c chunk (elemBytes r.d.fmt.bytes bits)

/-- A shard of SHARD_GATHER lands (R244). -/
def State.takeShard (s : State) (p : Pkt) (rank chunk : Nat) (bytes : List (BitVec 8)) : State :=
  match s.coll p.id with
  | none => s
  | some c =>
    let i := rank * (p.a40 6 / 65536) + chunk
    if c.done.contains i then s
    else
      match s.writeBytes { part := some p.part, pkt := some p.id } (p.a40 8 + i * 65536) bytes with
      | (some a, s) => s.collFail p.id .eccUncorr a
      | (none, s) => (s.modColl p.id fun c => { c with done := c.done ++ [i] }).collSettle p

/-- This member's own shard goes to every member, chunk by chunk, and to its own DEST. -/
def State.sendShards (s : State) (p : Pkt) (k : Nat) : State :=
  let rank := s.herd.rank s.herd.self
  (List.range (p.a40 6 / 65536)).foldl (fun s i =>
    match s.readBytes { part := some p.part, pkt := some p.id } (p.a40 4 + i * 65536) 65536 with
    | (_, some a, s) => s.collFail p.id .eccUncorr a
    | (b, none, s) => (s.sendAll 1 s.herd.members "SHARD" [k, rank, i] b).takeShard p rank i b) s

/-- Data moves (R241). -/
def State.onGo (s : State) (gather : Bool) (k : Nat) : State :=
  match s.herd.colls.find? fun c => c.gather = gather && c.k = k with
  | none => s
  | some c =>
    match s.pkt c.pkt with
    | none => s
    | some p =>
      if c.go || p.stage != .running then s
      else
        let s := s.modColl p.id fun c => { c with go := true, shards := [] }
        let s : State := { s with herd := { s.herd with joins := s.herd.joins.filter fun j => !(j.1 = gather && j.2.1 = k) } }
        if gather then c.shards.foldl (fun s x => s.takeShard p x.1 x.2.1 x.2.2) (s.sendShards p k)
        else (List.range (p.a40 6 / 65536)).foldl (fun s i => s.chunkStep p i) s

/-- A member's fields, which every member hears (log 111): at the leader, once every member's are there and equal, all may go
(R241). -/
def State.onJoin (s : State) (gather : Bool) (k x : Nat) (fields : List Nat) : State :=
  let js := (s.herd.joins.filter fun j => !(j.1 = gather && j.2.1 = k && j.2.2.1 = x)) ++ [(gather, k, x, fields)]
  let s : State := { s with herd := { s.herd with joins := js } }
  let mine := js.filter fun j => j.1 = gather && j.2.1 = k
  if s.isLeader && s.herd.allOf (mine.map fun j => j.2.2.1) && mine.all fun j => j.2.2.2 = fields then
    (s.sendAll 1 s.herd.members "GO" [b2n gather, k]).onGo gather k
  else s

/-- The packet joins the others of its place (R241). -/
def State.joinColl (s : State) (p : Pkt) : State :=
  match s.coll p.id with
  | none => s
  | some c =>
    let s := s.modPkt p.id fun q => { q with wait := .herd }
    let fs := collFields p c.gather
    (s.sendAll 1 s.herd.members "JOIN" ([b2n c.gather, c.k, s.herd.self] ++ fs)).onJoin c.gather c.k s.herd.self fs

def redBody (op : Nat) : OpBody := {
  sel := selOp op
  dec := fun s p => s.redDec p
  atDecode := fun s p => s.enrol p false
  body := fun s p => s.joinColl p }

def gatherBody : OpBody := {
  sel := selOp 0x49
  dec := fun s p => s.gatherDec p
  atDecode := fun s p => s.enrol p true
  body := fun s p => s.joinColl p }

def execBucketReduce (h : Nat) (s : State) : Host.Outcome State Fault Refusal := s.onHopper h (redBody 0x48)
def execReduceScatter (h : Nat) (s : State) : Host.Outcome State Fault Refusal := s.onHopper h (redBody 0x4A)
def execShardGather (h : Nat) (s : State) : Host.Outcome State Fault Refusal := s.onHopper h gatherBody

/-- The running packet of place k. -/
def State.collPkt (s : State) (gather : Bool) (k : Nat) : Option (Coll × Pkt) :=
  (s.herd.colls.find? fun c => c.gather = gather && c.k = k).bind fun c => (s.pkt c.pkt).map fun p => (c, p)

/-- COLLECTIVE_NODE: one collective message. -/
def collectiveNode (m : CollMsg) (s : State) : State :=
  if !s.running || !s.herd.formed then s
  else
    match m with
    | .join gather k x fields => s.onJoin gather k x fields
    | .go gather k => s.onGo gather k
    | .up k chunk level q vals =>
      match s.collPkt false k with
      | some (c, p) =>
        if c.nodes.any fun x => x.1 = chunk && x.2.1 = level && x.2.2.1 = q then s
        else (s.modColl p.id fun c => { c with nodes := c.nodes ++ [(chunk, level, q, vals)] }).chunkStep p chunk
      | none => s
    | .down k chunk bytes =>
      match s.collPkt false k with
      | some (c, p) =>
        if bytes.length = 65536 && c.sent.contains chunk && chunk < s.chunks p c then s.takeResult p c chunk bytes else s
      | none => s
    | .shard k rank chunk bytes =>
      match s.collPkt true k with
      | some (c, p) =>
        if bytes.length != 65536 || chunk ≥ p.a40 6 / 65536 || rank ≥ s.herd.members.length then s
        else if c.go then s.takeShard p rank chunk bytes
        else s.modColl p.id fun c => { c with shards := c.shards ++ [(rank, chunk, bytes)] }
      | none => s

def execCollectiveNode (msg : CollMsg) (s : State) : Host.Outcome State Fault Refusal := noted true (collectiveNode msg s)

/-! ### Herd contexts (R303, R304) -/

/-- A CTX_OPEN opens a herd context (R303). -/
def State.opensHerdCtx (s : State) (p : Pkt) : Bool :=
  let w := p.w 2
  let lo := mfKeyLo s.herd.header
  let hi := mfKeyHi s.herd.header
  s.herd.formed && s.herd.part = p.part && lo ≤ hi && w % 4 = 2 && [0, 1, 4, 5].contains (field w 7 4) &&
    lo ≤ p.q 4 && p.q 4 ≤ hi

/-- First tile position of this member's portion. -/
def State.rowBase (s : State) : Nat := match s.herd.entry s.herd.self with | some e => e.rowBase | none => 0

/-- The next-higher ROW_BASE of any member. -/
def State.nextBase (s : State) : Option Nat :=
  let bs := s.herd.members.filterMap fun x => (s.herd.entry x).map (·.rowBase)
  (bs.filter fun b => b > s.rowBase).foldl (fun acc b => match acc with | some a => some (min a b) | none => some b) none

/-- The member that forms the tree. -/
def Herd.treeMember (hd : Herd) : Nat :=
  let ms := hd.members.filterMap fun x => (hd.entry x).map fun e => (e.rowBase, x)
  (ms.foldl (fun acc b => match acc with
    | some a => if b.1 < a.1 then some b else some a
    | none => some b) (none : Option (Nat × Nat))).elim 0 (·.2)

/-- Waiting nodes as messages, and back. -/
def nodeMsg (t : TNode) : CtxNodeMsg :=
  { level := t.level, pos := t.pos, n := t.node.n, max := t.node.m, a := t.node.ws.getD 0 (negZero32, negZero32),
    b := t.node.ws.getD 1 (negZero32, negZero32) }
def msgNode (kind : Nat) (m : CtxNodeMsg) : TNode :=
  { level := m.level, pos := m.pos, node := { n := m.n, m := m.max, ws := if kind = 5 then [m.a, m.b] else [m.a] } }

/-- Value of node (level, pos) where positions below T without a leaf hold the identity, and positions from T on are
padding (R93, R304). -/
def spanValue (k : AKind) (key : Key) (ns : List TNode) (T : Nat) : Nat → Nat → Option Node × Flags
  | 0, pos =>
    if pos ≥ T then (none, {}) else (some (((findNode ns 0 pos).map (·.node)).getD k.start), {})
  | l + 1, pos =>
    if pos * 2 ^ (l + 1) ≥ T then (none, {})
    else
      match findNode ns (l + 1) pos with
      | some x => (some x.node, {})
      | none =>
        if ns.all fun x => x.level > l + 1 || x.pos >>> (l + 1 - x.level) ≠ pos then (some k.start, {})
        else
          let (a, fa) := spanValue k key ns T l (2 * pos)
          let (b, fb) := spanValue k key ns T l (2 * pos + 1)
          match a, b with
          | some x, some y =>
            let (c, fc) := combNodes k 2 key pos (l + 1) 1 x y
            (some c, (fa.or fb).or fc)
          | some x, none => (some x, fa)
          | none, y => (y, fb)

/-- The root of the whole row (R304). -/
def herdRoot (kind : Nat) (key : Key) (ms : List CtxNodesMsg) : Node × Flags :=
  let T := ms.foldl (fun n m => max n m.tiles) 0
  let ns := ms.flatMap fun m => m.nodes.map (msgNode kind)
  let k := AKind.ofKind kind false false 0
  match spanValue k key ns T 30 0 with
  | (some x, f) => ({ x with n := ns.foldl (fun n t => n + t.node.n) 0 }, f)
  | (none, f) => (k.start, f)

end Sys2Proof.Machine
end

