-- ==== Sys2Proof/Machine/CtxOps.lean ====
section
/-!
DEFINITION. CTX_OPEN, CTX_FEED, CTX_CLOSE, CTX_QUERY and what they wait for; HERD_WAIT_LIMIT (04 R77 to R84, R427, R426;
07 R172 to R174; 10 R303, R304).
-/
namespace Sys2Proof.Machine

/-! ### CTX_OPEN (R79, R172) -/

/-- The slot is taken on the lowest-numbered engine that has one, or the packet waits or ends (R76, R79). -/
def State.openTake (s : State) (p : Pkt) : State :=
  let w := p.w 2
  let pair := bit w 12
  match (s.unfenced p.part).findSome? fun e => (s.slotsOn e p.cls pair).map fun x => (e, x.1, x.2) with
  | none =>
    if s.unfenced p.part = [] then s.endPkt p.id .engineFenced 0 0
    else if p.noWait || (p.wait != .ctx && s.ownSlotsOnly p) then s.endPkt p.id .ctxExhausted 0 0
    else s.modPkt p.id fun q => { q with wait := .ctx }
  | some (e, a, b) =>
    let herd := s.opensHerdCtx p
    let kind := field w 7 4
    let rk := BitVec.ofNat 64 (p.q 4)
    let acc := Acc.fresh (AKind.ofKind kind (bit w 13) (bit w 14) (field w 20 16))
    let x : Ctx :=
      { handle := e * 8192 + a, mode := w % 4, kind := kind, outFmt := field w 11 8, rnd := field w 3 2, chained := pair,
        chain := if pair then e * 8192 + b else 0, part := p.part, cls := p.cls, hop := p.hop, tag := p.tag,
        keyword := keyword p.seed rk, rowKey := rk, tiles := if herd then s.rowBase else 0, dir := bit w 13,
        nanRank := bit w 14, k := field w 20 16, herd := herd, acc := acc }
    let s := s.putCtx x
    let s := if pair then s.putCtx { x with handle := e * 8192 + b, chained := false, chain := 0, successor := true, acc := {} }
      else s
    s.modPkt p.id fun q => { q with wait := .none, ctx := e * 8192 + a }

def openBody : OpBody := {
  sel := selOp 0x10
  dec := fun s p =>
    let bad := s.opensHerdCtx p && s.srBad p.part (field (p.w 2) 3 2)
    { offs := ctxOpenOffs p s.replay.armed.isSome ++ off bad 2 2 }
  atDecode := fun s p => s.openTake p
  body := fun s p => s.endPkt p.id .ok p.ctx 0 {} p.ctx }

/-- A CTX_OPEN that waits for a slot tries again. -/
def State.retryOpen (s : State) (h : Nat) : State :=
  s.withFront h (selOp 0x10) fun p => if p.stage = .decoded && p.wait = .ctx then s.openTake p else s

def execCtxOpen (h : Nat) (s : State) : Host.Outcome State Fault Refusal := (s.retryOpen h).onHopper h openBody

/-- CTX_SLOT_FREED: the first waiting packet of the engine's partition gets its slot (R76, R79). -/
def ctxSlotFreed (e : Nat) (s : State) : State :=
  match s.enginePart e with
  | none => s
  | some pt =>
    match (s.byClass pt).find? fun p => p.wait = .ctx && (p.stage = .decoded || p.stage = .running) with
    | none => s
    | some p =>
      if !s.running then s
      else if p.stage = .decoded then s.retryOpen p.hop
      else
        p.waits.foldl (fun s r => match (s.eng r).run, s.pkt p.id, s.compOf p with
          | some g, some p, some c => if p.stage = .running && g.pkt = p.id && g.left > 0 then (s.beginRow r p c g.row g.tile).2 else s
          | _, _, _ => s) s

def execCtxSlotFreed (e : Nat) (s : State) : Host.Outcome State Fault Refusal := noted (e < 8) (ctxSlotFreed e s)

/-- CTX_WAIT_LIMIT_EXPIRY: a context wait passes CTX_WAIT_LIMIT (R76). -/
def ctxWaitExpiry (h : Nat) (s : State) : State :=
  s.withFront h (fun p => p.wait = .ctx) fun p => s.compFail p.id .ctxExhausted 0

def execCtxWaitLimitExpiry (h : Nat) (s : State) : Host.Outcome State Fault Refusal := noted (h < 256) (ctxWaitExpiry h s)

/-! ### CTX_FEED (R81, R173, R303) -/

def State.feedDec (s : State) (p : Pkt) : Dec :=
  let c := s.ownCtx p
  let d := decodeFeed p c
  let more : List Off := match c with
    | some c =>
      let T := (p.a40 6 + 1023) / 1024
      off (c.st = .ended) 1 16 ++
      (if c.herd then match s.nextBase with
        | some b => off (c.tiles + T > b) 6 0
        | none => []
       else [])
    | none => []
  { d with offs := d.offs ++ more }

def feedBody : OpBody := {
  sel := selOp opCTX_FEED
  units := fun p => if bit (p.w 2) 4 then 2 else 1
  dec := fun s p => s.feedDec p
  atDecode := fun s p =>
    let n := p.a40 6
    let s := s.modPkt p.id fun q => { q with pos := ((s.ctx p.handle).map (·.tiles)).getD 0 }
    s.modCtx p.handle fun c => { c with tiles := c.tiles + (n + 1023) / 1024, feeds := c.feeds ++ [p.id],
                                        st := if n % 1024 = 0 then c.st else .ended }
  body := fun s p =>
    s.modPkt p.id fun q => { q with work := some {
      m := s.unfenced p.part, rows := [{ row := 0, home := handleEngine p.handle, handle := some p.handle }] } } }

def execCtxFeed (h : Nat) (s : State) : Host.Outcome State Fault Refusal := s.onHopper h feedBody

/-! ### CTX_CLOSE and CTX_QUERY (R82, R83, R174, R426, R427) -/

/-- DEST_FMT of a close that writes. -/
def closeDest (p : Pkt) : Option (BitVec 32) := if p.op = 0x12 && bit (p.w 2) 0 then some (p.dw.getD 6 0) else none

/-- Format in which a result is rounded (R427). -/
def resultDesc (dest : Option (BitVec 32)) (c : Ctx) : Desc :=
  match dest with | some w => descOf w.toNat | none => { fmt := (Fmt.ofCode c.outFmt).getD .fp32 }
def closeDesc (p : Pkt) (c : Ctx) : Desc := resultDesc (closeDest p) c

/-- The result a close would form now: bits, indices, empty, node, flags. -/
def State.closeResult (s : State) (p : Pkt) (c : Ctx) : List Nat × List Nat × Bool × Node × Flags :=
  let k := ctxKind c
  let (root, f0) := (s.accOf c).root k c.mode (s.ctxKey c)
  let n := c.acc.run.n
  let empty := if k.isRank then root.best = [] else n = 0 || (c.kind = 4 && root.m == negInf32)
  let (vs, is, f1) := closeValues c.kind (closeDesc p c) (s.ctxKey c) c.k empty { root with n := n }
  (vs, is, empty, root, f0.or f1)

/-- Table OPC-8. -/
def closeWords (c : Ctx) (vs is : List Nat) (root : Node) : Nat × Nat :=
  match c.kind with
  | 4 | 5 => (vs.getD 0 0 + vs.getD 1 0 * 2 ^ 32, c.count % 2 ^ 40)
  | 6 | 7 => (vs.getD 0 0, is.getD 0 0 % 2 ^ 40)
  | 8 => (vs.getD 0 0, min root.best.length c.k)
  | _ => (vs.getD 0 0, c.count % 2 ^ 40)

/-- Bytes that a close writes, at DEST and IDX_DEST (Table OPC-8). -/
def closeWrites (p : Pkt) (c : Ctx) (vs is : List Nat) : List (Nat × List (BitVec 8)) :=
  if !bit (p.w 2) 0 then []
  else
    let esz := (closeDesc p c).fmt.bytes
    let idx := if bit (p.w 2) 1 then 8 else 4
    (p.a40 4, elemBytes esz vs) ::
      (if c.kind = 6 || c.kind = 7 || c.kind = 8 then [(p.a40 8, elemBytes idx is)] else [])

/-- Operands of a close (R358, R75). -/
def closeOperands (p : Pkt) (c : Ctx) : List (TDesc × Bool) :=
  if !bit (p.w 2) 0 then []
  else
    let n := if c.kind = 8 then c.k else if c.kind = 4 || c.kind = 5 then 2 else 1
    (flat (p.a40 4) (n * (closeDesc p c).fmt.bytes), true) ::
      (if c.kind = 6 || c.kind = 7 || c.kind = 8 then [(flat (p.a40 8) (n * if bit (p.w 2) 1 then 8 else 4), true)] else [])

/-- A reply's flags: the context's sticky flags and the events of the close's own roundings (R426). -/
def stickyFlags (c : Ctx) (empty : Bool) (f : Flags) : Flags :=
  { f with ovf := f.ovf || c.ovf, nanSeen := f.nanSeen || c.nanSeen, emptyRow := empty }

/-- A close's result has been formed: written, the context freed, the reply due. -/
def State.closeFinish (s : State) (p : Pkt) (c : Ctx) (r0 r1 : Nat) (ws : List (Nat × List (BitVec 8))) (f : Flags) : State :=
  match s.writeAll { part := some p.part, pkt := some p.id } ws with
  | (some a, s) => s.endPkt p.id .eccUncorr a 0
  | (none, s) => (s.freeAll c.handle).endPkt p.id .ok r0 r1 f p.handle

/-- Events of a rounding as HERD_CTX_RESULT carries them: OVF, SAT, NAN_SEEN. -/
def evNat (f : Flags) : Nat := b2n f.ovf + 2 * b2n f.sat + 4 * b2n f.nanSeen
def evFlags (ev : BitVec 3) : Flags := { ovf := ev.getLsbD 0, sat := ev.getLsbD 1, nanSeen := ev.getLsbD 2 }

/-- A herd close's messages are all there: the tree member forms the row, rounds it in the format of each member's own close
(R427, log 42), and answers (R304). -/
def State.herdCloseTry (s : State) (k : Nat) : State :=
  match s.herd.closes.find? fun x => x.k = k with
  | none => s
  | some x =>
    let ms := s.herd.closeMsgs.filter fun m => m.k = k
    match s.pkt x.pkt, s.ctx x.handle with
    | some p, some c =>
      let same := ms.all fun m => m.rowKey = c.rowKey && m.kind = c.kind && m.rnd = c.rnd && m.outFmt = c.outFmt
      if !(s.herd.allOf (ms.map (·.x)) && same) || p.stage != .running then s
      else
        let key := s.ctxKey c
        let (root, f0) := herdRoot c.kind key ms
        let count := ms.foldl (fun n m => n + m.count) 0
        let empty := count = 0 || (c.kind = 4 && root.m == negInf32)
        let result (d : Option (BitVec 32)) : List Nat × Nat × Flags :=
          let (vs, is, f1) := closeValues c.kind (resultDesc d c) key 0 empty { root with n := count }
          (vs, (closeWords c vs is root).1, f0.or f1)
        let s : State := { s with herd := { s.herd with
          closes := s.herd.closes.filter fun y => y.k != k, closeMsgs := s.herd.closeMsgs.filter fun m => m.k != k } }
        let s := (ms.filter fun m => m.x != s.herd.self).foldl (fun s m =>
          let (_, r0, f) := result m.dest
          s.send 1 m.x "HERD_CTX_RESULT" [k, r0, count, evNat f]) s.draw
        let (vs, r0, f) := result (closeDest p)
        s.closeFinish p c r0 (count % 2 ^ 40) (closeWrites p c vs []) (stickyFlags c empty f)
    | _, _ => s

/-- Nodes of one member at the tree member. -/
def State.onHerdNodes (s : State) (m : CtxNodesMsg) : State :=
  ({ s with herd := { s.herd with
      closeMsgs := (s.herd.closeMsgs.filter fun (y : CtxNodesMsg) => !(y.k = m.k && y.x = m.x)) ++ [m] } }).herdCloseTry m.k

/-- A node as numbers of a message. -/
def nodeArgs (n : CtxNodeMsg) : List Nat :=
  [n.level, n.pos, n.n, n.max.toNat, n.a.1.toNat, n.a.2.toNat, n.b.1.toNat, n.b.2.toNat]

/-- A herd context's close sends its nodes to the tree member (R304). -/
def State.herdClose (s : State) (p : Pkt) (c : Ctx) : State :=
  match s.herd.closes.find? fun x => x.pkt = p.id with
  | none => s
  | some x =>
    let s := s.modPkt p.id fun q => { q with wait := .herd }
    let m : CtxNodesMsg := { k := x.k, x := s.herd.self, rowKey := c.rowKey, kind := c.kind, rnd := c.rnd, outFmt := c.outFmt,
                             dest := closeDest p,
                             tiles := if c.tiles = s.rowBase then 0 else c.tiles, count := c.count,
                             nodes := c.acc.nodes.map nodeMsg }
    let t := s.herd.treeMember
    if t = s.herd.self then s.onHerdNodes m
    else s.send 1 t "HERD_CTX_NODES" ([m.k, m.x, m.rowKey.toNat, m.kind, m.rnd, m.outFmt,
      match m.dest with | some w => w.toNat + 1 | none => 0, m.tiles, m.count] ++
      m.nodes.flatMap nodeArgs)

/-- CTX_CLOSE or CTX_QUERY goes as far as it can: feeds first, then the record, then the result. DESIGN CHOICE, log 114: no
order holds between a query and a later close. -/
def State.closeTry (s : State) (p : Pkt) : State :=
  let again (s : State) : State := s.modPkt p.id fun q => { q with wait := .feeds }
  match s.ctx p.handle with
  | none => s.endPkt p.id .badHandle 0 0
  | some c =>
    if c.lost || (s.eng (handleEngine c.handle)).fenced then s.endPkt p.id .engineFenced 0 0
    else if p.wait = .herd then s
    else if c.feeds.any fun i => i < p.id then again s
    else
      match (if c.record.isSome then s.useRecord c else .ok s) with
      | .fault => s.endPkt p.id .memFault (s.overflowBase p.part) 0
      | .wait s => again s
      | .ok s =>
        if p.op = 0x12 && c.herd then s.herdClose p c
        else
          let (vs, is, empty, root, f) := s.closeResult p c
          let (r0, r1) := closeWords c vs is root
          let s := s.draw
          if p.op = 0x12 then s.closeFinish p c r0 r1 (closeWrites p c vs is) (stickyFlags c empty f)
          else s.endPkt p.id .ok r0 r1 (stickyFlags c empty f) p.handle

def closeBody : OpBody := {
  sel := selOp 0x12
  dec := fun (s : State) p =>
    let ops : List (TDesc × Bool) := match s.ownCtx p with | some c => closeOperands p c | none => []
    { offs := closeOffs p (s.ownCtx p) ++
        (if bit (p.w 2) 0 then srFreeOffs s.replay.armed.isSome (field (p.w 6) 7 4) 6 4 else []), extents := ops.map fun x => (x.1.base, x.1.len), reach := ops }
  atDecode := fun s p =>
    let s : State := match s.ctx p.handle with
      | some c =>
        if c.herd then
          let cs := s.herd.closes ++ [{ pkt := p.id, handle := p.handle, k := s.herd.closeCount }]
          ({ s with herd := { s.herd with closeCount := s.herd.closeCount + 1, closes := cs } } : State)
        else s
      | none => s
    s.modCtx p.handle fun c => { c with heldSt := c.st, st := .closing }
  body := fun s p => s.closeTry p
  resume := fun s p => s.closeTry p }

def execCtxClose (h : Nat) (s : State) : Host.Outcome State Fault Refusal := s.onHopper h closeBody

def queryBody : OpBody := {
  sel := selOp 0x13
  dec := fun _ p => { offs := queryOffs p }
  body := fun s p => s.closeTry p
  resume := fun s p => s.closeTry p }

def execCtxQuery (h : Nat) (s : State) : Host.Outcome State Fault Refusal := s.onHopper h queryBody

/-! ### Herd contexts as commands -/

def execHerdCtxNode (msg : CtxNodesMsg) (s : State) : Host.Outcome State Fault Refusal :=
  noted (msg.x < 64) (if s.running && s.herd.formed && s.herd.treeMember = s.herd.self then s.onHerdNodes msg else s)

/-- The result arrives: the waiting close writes it and replies (R304). -/
def herdCtxResult (k : Nat) (r0 count : BitVec 64) (ev : BitVec 3) (s : State) : State :=
  match s.herd.closes.find? fun x => x.k = k with
  | none => s
  | some x =>
    match s.pkt x.pkt, s.ctx x.handle with
    | some p, some c =>
      if p.stage != .running || p.wait != .herd then s
      else
        let s : State := { s with herd := { s.herd with closes := s.herd.closes.filter fun y => y.k != k } }
        let w := r0.toNat
        let vs := if c.kind = 4 || c.kind = 5 then [w % 2 ^ 32, w / 2 ^ 32] else [w]
        let empty := count = 0 || (c.kind = 4 && w % 2 ^ 32 = negInf32.toNat)
        s.closeFinish p c w (count.toNat % 2 ^ 40) (closeWrites p c vs []) (stickyFlags c empty (evFlags ev))
    | _, _ => s

def execHerdCtxResult (k : Nat) (words : BitVec 64 × BitVec 64) (ev : BitVec 3) (s : State) : Host.Outcome State Fault Refusal :=
  noted true (if s.running then herdCtxResult k words.1 words.2 ev s else s)

/-! ### HERD_WAIT_LIMIT (R241, R256 to R258, R261, R265, R304) -/

/-- The member whose data a collective that moves waits for: of its first chunk not done, the sender of a shard, a child that
has not sent its node, or the parent that owes the result. -/
def State.collAwaited (s : State) (p : Pkt) (c : Coll) : Option Nat :=
  ((List.range (s.chunks p c)).find? fun i => !c.done.contains i).bind fun i =>
    if c.gather then s.herd.members[i / (p.a40 6 / 65536)]?
    else if c.sent.contains i then s.herd.parentOf s.herd.self
    else ((s.herd.kidNodes s.herd.self).find? fun k =>
      !c.nodes.any fun x => x.1 = i && x.2.1 = k.1 && x.2.2.1 = k.2.1).map (·.2.2)

/-- The member concerned (R241): the lowest one that has not joined or whose fields differ from the leader's; once data moves,
the lowest lost one, else the one whose data is awaited. -/
def State.collMissing (s : State) (p : Pkt) (c : Coll) : Nat :=
  if c.go then
    ((s.herd.members.find? fun x => !s.herd.present x).or (s.collAwaited p c)).getD s.herd.leader
  else
    let js := s.herd.joins.filter fun j => j.1 = c.gather && j.2.1 = c.k
    let lead := ((js.find? fun j => j.2.2.1 = s.herd.leader).map (·.2.2.2)).getD (collFields p c.gather)
    (s.herd.members.find? fun x => !s.herd.present x || !js.any fun j => j.2.2.1 = x && j.2.2.2 = lead).getD s.herd.leader

/-- Members the leader has not heard from in this commit that no route reaches, and whose twin is lost or in the same case:
nobody else can find them lost (R284 Edges). -/
def State.unheard (s : State) (l : Lead) : List Nat :=
  let heard := if l.token.isSome then l.acks else l.ready
  let mute (x : Nat) : Bool := x != s.herd.self && !heard.contains x && (s.route x).isNone
  s.herd.members.filter fun x => s.canLose x && mute x &&
    match s.herd.entry x with | some e => s.herd.isLost (s.herd.deviceOf e.twin) || mute e.twin | none => false

/-- The leader's wait of R258 has passed: it declares lost whom nobody else can, and rolls back. -/
def State.leaderExpired (s : State) : State :=
  match s.herd.lead with
  | some l =>
    if !s.isLeader then s
    else
      let s := (s.unheard l).foldl State.partnerLost s
      if s.herd.lead.isSome then s.decideRollback (l.step - 1) else s
  | none => s

def herdWaitExpiry (h : Nat) (s : State) : State :=
  match s.front h with
  | none => s.leaderExpired
  | some p =>
    if p.wait != .herd then s.leaderExpired
    else
      match s.coll p.id with
      | some c => (s.dropColl p.id).herdTimeout p (s.collMissing p c)
      | none =>
        if p.op = 0x51 then
          let s := if s.isLeader then s.leaderExpired else s
          if s.train.commit.isSome then s.commitExpired p else s
        else if p.op = 0x58 then s.dropCkpt.herdTimeout p s.twinName s.train.committed
        else if p.op = 0x59 then
          (s.setRestore none).herdTimeout p (if s.herd.formed then s.holderOf (p.w 2 % 64) else 0) (BitVec.ofNat 64 (p.q 4))
        else if p.op = 0x12 then
          ({ s with herd := { s.herd with closes := s.herd.closes.filter fun x => x.pkt != p.id } }).herdTimeout p s.herd.treeMember
        else s

def execHerdWaitLimitExpiry (h : Nat) (s : State) : Host.Outcome State Fault Refusal :=
  noted (h < 256) (if s.running then herdWaitExpiry h s else s)

end Sys2Proof.Machine
end

