-- ==== Sys2Proof/Machine/Compute.lean ====
section
/-!
DEFINITION. The commands of the compute opcodes, of the Hopper manager and of the engines. What each does stands in
Engine.lean, Context.lean and Hopper.lean.
-/
namespace Sys2Proof.Machine

/-! ### Compute opcodes -/

/-- SR_FREE is refused while a replay is armed (09 R251). -/
def State.replayArmed (s : State) : Bool := s.replay.armed.isSome

/-- REDUCE (06 R134 to R156, 07 R175, R176). -/
def execReduce (h : Nat) (s : State) : Host.Outcome State Fault Refusal := s.onHopper h (compBody opREDUCE State.replayArmed)

/-- SFN_APPLY (05, 07 R177). -/
def execSfnApply (h : Nat) (s : State) : Host.Outcome State Fault Refusal := s.onHopper h (compBody opSFN State.replayArmed)

/-- EWISE (06 R148, 07 R177 to R179). -/
def execEwise (h : Nat) (s : State) : Host.Outcome State Fault Refusal := s.onHopper h (compBody opEWISE State.replayArmed)

/-- SOFTMAX (06 R133 to R141). -/
def execSoftmax (h : Nat) (s : State) : Host.Outcome State Fault Refusal := s.onHopper h (compBody opSOFTMAX State.replayArmed)

/-- LAYERNORM (06 R142 to R147). -/
def execLayernorm (h : Nat) (s : State) : Host.Outcome State Fault Refusal := s.onHopper h (compBody opLAYERNORM State.replayArmed)

/-- RMSNORM (06 R142 to R147). -/
def execRmsnorm (h : Nat) (s : State) : Host.Outcome State Fault Refusal := s.onHopper h (compBody opRMSNORM State.replayArmed)

/-- SOFTMAX_BWD (06 R149 to R151). -/
def execSoftmaxBwd (h : Nat) (s : State) : Host.Outcome State Fault Refusal := s.onHopper h (compBody opSOFTMAX_BWD State.replayArmed)

/-- NORM_BWD (06 R149 to R151). -/
def execNormBwd (h : Nat) (s : State) : Host.Outcome State Fault Refusal := s.onHopper h (compBody opNORM_BWD State.replayArmed)

/-- COPY (07 R179). -/
def execCopy (h : Nat) (s : State) : Host.Outcome State Fault Refusal := s.onHopper h (compBody opCOPY State.replayArmed)

/-! ### Hopper manager -/

/-- DOORBELL_TAIL_WRITE (R51, R52, R54, R56). -/
def execDoorbellTailWrite (f h : Nat) (v : BitVec 32) (s : State) : Host.Outcome State Fault Refusal :=
  bounded (f < 16 && h < 256) (if s.funcUp f then doorbellTail f h v s else s)

/-- DOORBELL_CPL_HEAD_WRITE. -/
def execDoorbellCplHeadWrite (f h : Nat) (v : BitVec 32) (s : State) : Host.Outcome State Fault Refusal :=
  bounded (f < 16 && h < 256) (if s.funcUp f then doorbellHead f h v s else s)

/-- HOP_CTRL_WRITE (R49, R55, 14 R378, R385). -/
def execHopCtrlWrite (f h : Nat) (v : BitVec 32) (s : State) : Host.Outcome State Fault Refusal :=
  noted (f < 16 && h < 256) (hopCtrlWrite f h v s)

/-- HOP_IRQ_WRITE (14 Table REG-12). -/
def execHopIrqWrite (f h : Nat) (v : BitVec 32) (s : State) : Host.Outcome State Fault Refusal :=
  bounded (f < 16 && h < 256) (hopIrqWrite f h v s)

/-- PACKET_FETCH (R55, R57, R58). -/
def execPacketFetch (news : List Host.Cell) (s : State) : Host.Outcome State Fault Refusal := noted true (packetFetch news s)

/-- IRQ_COALESCE_TIMEOUT (R72). -/
def execIrqCoalesceTimeout (h : Nat) (s : State) : Host.Outcome State Fault Refusal :=
  bounded (h < 256) (if s.running then irqCoalesce h s else s)

/-- MSIX_VECTOR_UNMASK: a pending message goes out (R72). -/
def msixUnmask (f v : Nat) (s : State) : State :=
  let s : State := { s with msix := { s.msix with
    unmasked := if s.msix.unmasked.contains (f, v) then s.msix.unmasked else s.msix.unmasked ++ [(f, v)] } }
  if s.msix.pending.contains (f, v) then
    ({ s with msix := { s.msix with pending := s.msix.pending.filter fun x => x != (f, v) } }).emit (.msix f v)
  else s
def execMsixVectorUnmask (f v : Nat) (s : State) : Host.Outcome State Fault Refusal :=
  bounded (f < 16 && v < Config.msixTableSize) (if s.funcUp f then msixUnmask f v s else s)

/-! ### Engines -/

/-- SEGMENT_DISPATCH (R66, R67, R196). -/
def execSegmentDispatch (e : Nat) (s : State) : Host.Outcome State Fault Refusal := noted (e < 8) (segmentDispatch e s)

/-- TILE_COMPLETE (R67, R85 to R90). -/
def execTileComplete (e c : Nat) (s : State) : Host.Outcome State Fault Refusal := noted (e < 8 && c < 128) (tileComplete e c s)

/-- TAILRACE_DRAIN_DONE (R88). -/
def execTailraceDrainDone (e c : Nat) (s : State) : Host.Outcome State Fault Refusal :=
  noted (e < 8 && c < 128) (if s.running then tailraceDrain e c s else s)

/-- SEGMENT_END (R67, R123). -/
def execSegmentEnd (e : Nat) (s : State) : Host.Outcome State Fault Refusal :=
  noted (e < 8) (if s.running then segmentEnd e s else s)

/-- CARRY_NODE_ARRIVAL (R90 to R94, R100). -/
def execCarryNodeArrival (e : Nat) (s : State) : Host.Outcome State Fault Refusal := noted (e < 8) (carryNode e s)

/-- PENDING_ENTRY_FREED (R94). -/
def execPendingEntryFreed (e : Nat) (s : State) : Host.Outcome State Fault Refusal :=
  noted (e < 8) (if s.running then pendingFreed e s else s)

/-- PAGE_OUT (08 R198). -/
def execPageOut (e : Nat) (s : State) : Host.Outcome State Fault Refusal :=
  noted (e < 8) (if s.running then pageOut e s else s)

/-- PAGE_IN (08 R198). -/
def execPageIn (e : Nat) (s : State) : Host.Outcome State Fault Refusal :=
  noted (e < 8) (if s.running then pageIn e s else s)

end Sys2Proof.Machine
end

