-- ==== Sys2Proof/Machine/MemOps.lean ====
section
/-!
DEFINITION. PREFETCH, FLUSH_RANGE, INVAL_RANGE, WINDOW_SET, and the events of L1, L2 and HBM (08 R202 to R226; 07 R180, R181).
-/
namespace Sys2Proof.Machine

/-! ### Range operations (R220 to R223) -/

/-- A line holds data of the operand range: in the parameter region, of its current copy. -/
def State.covers (s : State) (l : L2Line) (a n : Nat) : Bool :=
  let x := l.addr * 128
  let b := s.regions.paramBase
  let z := s.regions.paramSize
  let at_ (o : Nat) : Bool := a < o + 128 && o < a + n
  if z != 0 && b ≤ x && x < b + z then !pgGen (s.pageState ((x - b) / 65536)) && at_ x
  else if z != 0 && b + z ≤ x && x < b + 2 * z then pgGen (s.pageState ((x - b - z) / 65536)) && at_ (x - z)
  else at_ x

/-- Bytes of the range before the first address outside the partition's ranges, and that address. -/
def State.rangeCut (s : State) (p : Pkt) (write : Bool) : Nat × Option Nat :=
  let a := p.a40 4
  match s.firstBad p.part write a (p.a40 6) with
  | some b => (b - a, some b)
  | none => (p.a40 6, none)

def rangeDec (p : Pkt) : Dec := { offs := rangeOffs p, extents := [(p.a40 4, p.a40 6)] }

def prefetchHint (p : Pkt) : Hint := if p.w 2 % 4 = 0 then .keep else if p.w 2 % 4 = 1 then .normal else .evictFirst

/-- A sector of an address is valid in L2. -/
def State.present (s : State) (a : Nat) : Bool :=
  (s.l2Sec (s.locOf (s.backing a) / 32)).valid

/-- PREFETCH issues one read for each sector that is not valid (R220). -/
def State.prefetch (s : State) (p : Pkt) : State :=
  let (n, bad) := s.rangeCut p false
  let secs := (List.range (n / 32)).map fun i => p.a40 4 + 32 * i
  let hits := secs.filter s.present
  let need := secs.filter fun a => !s.present a
  let fl (a : Nat) : Flight :=
    { sec := s.locOf (s.backing a) / 32, addr := s.backing a / 32, op := a, hint := prefetchHint p,
      pkt := if bad.isNone then some p.id else none, part := some p.part }
  let src : Src := { part := some p.part, hint := prefetchHint p }
  let s := hits.foldl (fun s a => (s.monitor src (s.backing a / 32) false).hitLine (s.locOf (s.backing a) / 128)) s
  let s := need.foldl (fun s a => (s.monitor src (s.backing a / 32) true).wakeStack (s.locOf (s.backing a) / 32)) s
  let s := s.modMem fun m => { m with flight := m.flight ++ need.map fl }
  let poisoned := hits.find? fun a => (s.l2Sec (s.locOf (s.backing a) / 32)).poison
  match bad, poisoned with
  | _, some b => s.endPkt p.id .eccUncorr b 0
  | some b, none => s.endPkt p.id .memFault b 0
  | none, none =>
    if need = [] then s.endPkt p.id .ok 0 hits.length
    else s.modPkt p.id fun q => { q with wait := .drain, r0 := BitVec.ofNat 64 need.length, r1 := BitVec.ofNat 64 hits.length }

def prefetchBody : OpBody := {
  sel := selOp 0x30
  dec := fun _ p => rangeDec p
  body := fun s p => s.prefetch p }
def execPrefetch (h : Nat) (s : State) : Host.Outcome State Fault Refusal := s.onHopper h prefetchBody

/-- FLUSH_RANGE (R221): the reply waits until every sector is in DRAM. DEDUCED, log 118: all lines in one step (R223). -/
def State.flushRange (s : State) (p : Pkt) : State :=
  let (n, bad) := s.rangeCut p false
  let ls := s.mem.lines.filter fun l => s.covers l (p.a40 4) n && l.isDirty
  let secs := ls.flatMap fun l => (List.range 4).filterMap fun i =>
    let x := l.secs.getD i {}
    if x.valid && x.dirty then some (l.line * 4 + i) else none
  let s := ls.foldl (fun s l => s.cleanLine l) s
  let s := s.modPkt p.id fun q => { q with secs := secs }
  match bad with
  | some b => s.endPkt p.id .memFault b 0
  | none => s.endPkt p.id .ok ls.length 0

def flushBody : OpBody := {
  sel := selOp 0x31
  dec := fun _ p => rangeDec p
  body := fun s p => s.flushRange p }
def execFlushRange (h : Nat) (s : State) : Host.Outcome State Fault Refusal := s.onHopper h flushBody

/-- INVAL_RANGE (R222). -/
def State.invalRange (s : State) (p : Pkt) : State :=
  let l2 := bit (p.w 2) 0
  let (n, bad) := s.rangeCut p l2
  let ls := s.mem.lines.filter fun l => s.covers l (p.a40 4) n
  let hit (x : L1Line) : Bool := ls.any fun l => l.line = x.line
  let es := s.partEngines p.part
  let l1 := es.foldl (fun k e => k + ((s.eng e).l1.filter hit).length) 0
  let s := es.foldl (fun s e => s.modEng e fun g =>
    { g with l1 := g.l1.filter fun x => !hit x, fills := g.fills.filter fun x => !hit x }) s
  let s := if l2 then s.discard fun l => ls.any fun y => y.line = l.line else s
  match bad with
  | some b => s.endPkt p.id .memFault b 0
  | none => s.endPkt p.id .ok (if l2 then ls.length else l1) (if l2 then (ls.filter L2Line.isDirty).length else 0)

def invalBody : OpBody := {
  sel := selOp 0x32
  dec := fun _ p => rangeDec p
  body := fun s p => s.invalRange p }
def execInvalRange (h : Nat) (s : State) : Host.Outcome State Fault Refusal := s.onHopper h invalBody

/-! ### Windows (R181, R210 to R215) -/

/-- Persistent lines of window n that `f` selects become non-persistent, at their recency (R214). -/
def State.unpin (s : State) (n : Nat) (f : L2Line → Bool) : State :=
  s.modMem fun m => { m with lines := m.lines.map fun l => if l.win = some n && f l then { l with win := none } else l }

/-- Line l is among the oldest lines of window n in its set beyond the quota. -/
def State.beyondQuota (s : State) (n quota : Nat) (l : L2Line) : Bool :=
  let younger := s.mem.lines.filter fun x => x.win = some n && l2Set x.line = l2Set l.line && x.born > l.born
  younger.length ≥ quota

/-- WINDOW_SET (R181, R214). -/
def State.windowSet (s : State) (p : Pkt) : State :=
  let w := p.w 2
  let n := w % 16
  let old := s.wins.getD n {}
  let s := s.windowRegs p
  let s :=
    if bit w 12 then
      let s := s.unpin n fun l => !(p.a40 4 ≤ l.addr * 128 && l.addr * 128 < p.a40 4 + p.a40 6)
      s.unpin n (s.beyondQuota n (field w 11 8))
    else s.unpin n fun _ => true
  s.endPkt p.id .ok (b2n old.enable) 0

def windowBody : OpBody := {
  sel := selOp 0x33
  dec := fun s p =>
    { offs := windowOffs s p, extents := if bit (p.w 2) 12 then [(p.a40 4, p.a40 6)] else [] }
  body := fun s p => s.windowSet p }
def execWindowSet (h : Nat) (s : State) : Host.Outcome State Fault Refusal := s.onHopper h windowBody

/-- PRESSURE_WINDOW_END (R215): the oldest window that has ended takes its effect. -/
def pressureEnd (p : Nat) (s : State) : State :=
  let q := s.part p
  match q.closed with
  | [] => s
  | high :: rest =>
    let n := if high then min 2 (q.above + 1) else 0
    let s := s.modPart p fun q => { q with closed := rest, above := n, pressure := q.pressure || n = 2 }
    if n = 2 && q.demoteEn then
      (List.range 16).foldl (fun s i =>
        let w := s.wins.getD i {}
        if w.enable && w.part = p && w.cls = 1 then
          (s.modWin i fun w => { w with cls := 2, demoted := true }).unpin i fun _ => true
        else s) s
    else s
def execPressureWindowEnd (p : Nat) (s : State) : Host.Outcome State Fault Refusal := noted (p < 8) (pressureEnd p s)

/-! ### HBM (R216, R226) -/

/-- The device address that a stack location holds, in sectors. -/
def State.addrOf (s : State) (loc : Nat) : Nat :=
  let o := loc * 32 % stackSize
  match [0, 1, 2, 3].find? fun k => s.locOf (k * stackSize + o) / 32 = loc with
  | some k => (k * stackSize + o) / 32
  | none => loc

/-- An ECC event at a sector location: logged; an uncorrectable one poisons DRAM (R226, Table SEC-9). -/
def State.hbmEcc (s : State) (loc addr : Nat) (ecc : Ecc) : State :=
  let unit := 0x20 + loc * 32 / stackSize
  let ch := loc * 32 % stackSize / 256 % 32
  match ecc with
  | .ok => s
  | .corrected => s.log 0x15 unit none (addr * 32) ch
  | .uncorrectable => (s.modMem fun m => { m with poison := setPoison loc true m.poison }).log 0x16 unit none (addr * 32) ch

/-- Source of a read in flight. -/
def Flight.src (f : Flight) : Src := { part := f.part, hint := f.hint, pkt := f.pkt }

/-- HBM_READ_RETURN: a read in flight fills L2, or is dropped or written again as a duplicate (R216). -/
def hbmReturn (i : Nat) (ecc : Ecc) (s : State) : State :=
  match s.mem.flight[i]? with
  | none => s
  | some f =>
    let s := s.modMem fun m => { m with flight := m.flight.eraseIdx i }
    let s := s.hbmEcc f.sec f.addr ecc
    let x := s.l2Sec f.sec
    let s := if x.valid && x.filled then s.countDup f.src else s
    let s := s.returnTo { f.src with pkt := some 0 } f.sec f.addr
    match f.pkt with
    | none => s
    | some id =>
      match s.pkt id with
      | none => s
      | some p =>
        if p.stage != .running then s
        else if (s.l2Sec f.sec).poison then
          (s.modMem fun m => { m with flight := m.flight.map fun y => if y.pkt = some id then { y with pkt := none } else y }).endPkt
            id .eccUncorr (f.op / 32 * 32) 0
        else if s.mem.flight.any fun y => y.pkt = some id then s
        else s.endPkt id .ok p.r0.toNat p.r1.toNat
def execHbmReadReturn (i : Nat) (ecc : Ecc) (s : State) : Host.Outcome State Fault Refusal :=
  noted true (if s.running then hbmReturn i ecc s else s)

/-- HBM_REFRESH meets a sector (R226). -/
def execHbmRefresh (loc : Nat) (ecc : Ecc) (s : State) : Host.Outcome State Fault Refusal :=
  bounded (loc < hbmSize / 32) (if s.running then s.hbmEcc loc (s.addrOf loc) ecc else s)

/-- DRAM_WRITE_DONE: the oldest sector on its way is in DRAM (R205, R221). -/
def execDramWriteDone (s : State) : Host.Outcome State Fault Refusal :=
  bounded true (match s.mem.wq with
    | w :: t => s.modMem fun m => ({ m with wq := t }).store w
    | [] => s)

/-! ### Messages between L2 and the L1s (R217 to R219) -/

/-- EVICTION_NOTICE: the presence bit clears if the notice's epoch is current (R217). -/
def evictionNotice (e : Nat) (s : State) : State :=
  match (s.eng e).notices with
  | [] => s
  | (line, ep) :: t =>
    let s := s.modEng e fun g => { g with notices := t }
    s.modLine line fun l => if l.epoch = ep then { l with pres := l.pres &&& ~~~ BitVec.ofNat 8 (2 ^ e) } else l
def execEvictionNotice (e : Nat) (s : State) : Host.Outcome State Fault Refusal := bounded (e < 8) (evictionNotice e s)

/-- BACK_INVALIDATE: the L1 drops the line, and any fill that came before, and answers (R218, Table MEM-7). -/
def backInvalidate (e : Nat) (s : State) : State :=
  match (s.eng e).binv with
  | [] => s
  | x :: t =>
    s.modEng e fun g => { g with binv := t, answers := g.answers ++ [x], l1 := g.l1.filter fun y => y.line != x.1,
                                 fills := g.fills.filter fun y => y.line != x.1 }
def execBackInvalidate (e : Nat) (s : State) : Host.Outcome State Fault Refusal := bounded (e < 8) (backInvalidate e s)

/-- BACK_INVALIDATE_ANSWER: either answer clears the bit (R218). -/
def backAnswer (e : Nat) (s : State) : State :=
  match (s.eng e).answers with
  | [] => s
  | x :: t =>
    (s.modEng e fun g => { g with answers := t }).modLine x.1 fun l => { l with pres := l.pres &&& ~~~ BitVec.ofNat 8 (2 ^ e) }
def execBackInvalidateAnswer (e : Nat) (s : State) : Host.Outcome State Fault Refusal := bounded (e < 8) (backAnswer e s)

/-- Sectors of a fill laid over those held. -/
def mergeSecs (a b : List (Option Sector)) : List (Option Sector) := (a.zip b).map fun x => if x.2.isSome then x.2 else x.1

/-- Set of a line in an L1: 1 MiB in 8 ways of 128-byte lines are 1,024 sets (R202). Which line falls into which set is the
model's choice (log 108). -/
def l1Set (line : Nat) : Nat := line % 1024

/-- L1_FILL: the oldest fill is installed with its epoch in its set of eight ways; a line of the set that it displaces, the one
that the event names or, in a full set, the least recent, sends a notice (R202, R217, log 108). -/
def l1Fill (e : Nat) (victim : Option Nat) (s : State) : State :=
  match (s.eng e).fills with
  | [] => s
  | x :: t =>
    s.modEng e fun g =>
      match g.l1.find? fun y => y.line = x.line with
      | some y =>
        { g with fills := t, l1 := (g.l1.filter fun z => z.line != x.line) ++ [{ x with secs := mergeSecs y.secs x.secs }] }
      | none =>
        let set := g.l1.filter fun y => l1Set y.line = l1Set x.line
        let v := match victim.bind fun v => set.find? fun y => y.line = v with
          | some y => some y
          | none => if set.length ≥ 8 then set.head? else none
        match v with
        | some y => { g with fills := t, l1 := (g.l1.filter fun z => z.line != y.line) ++ [x], notices := g.notices ++ [(y.line, y.epoch)] }
        | none => { g with fills := t, l1 := g.l1 ++ [x] }
def execL1Fill (e : Nat) (victim : Option Nat) (s : State) : Host.Outcome State Fault Refusal := bounded (e < 8) (l1Fill e victim s)

end Sys2Proof.Machine
end

