-- ==== Sys2Proof/Machine/Stash.lean ====
section
/-!
DEFINITION. STASH_SAVE and STASH_LOAD (09 R227 to R236, R425). Each is one step on its operands (log 71).
-/
namespace Sys2Proof.Machine

/-! ### BX8 and BX4 (R229 to R232) -/

/-- RNE of |x| / 2^q. -/
def quotRne (x : Val) (q : Int) : Nat :=
  match x with
  | .fin _ m e => if e - q ≥ 0 then m <<< (e - q).toNat else roundShift .rne m (q - e).toNat
  | _ => 0

/-- Offset of the exponent byte, and the largest magnitude. -/
def bxBias (bx4 : Bool) : Int := if bx4 then 128 else 132
def bxTop (bx4 : Bool) : Nat := if bx4 then 7 else 127

/-- The smallest E for which every magnitude fits. -/
def bxExp (bx4 : Bool) (xs : List Val) : Nat :=
  ((List.range 255).find? fun (E : Nat) => xs.all fun x => quotRne x ((E : Int) - bxBias bx4) ≤ bxTop bx4).getD 254

/-- Sign and magnitude of one element. -/
def bxElem (bx4 : Bool) (E : Nat) (x : Val) : Nat :=
  quotRne x ((E : Int) - bxBias bx4) + (if x.isNeg then (if bx4 then 8 else 128) else 0)

/-- Nibbles in pairs, the first in the low half. -/
def nibbles : List Nat → List Nat
  | a :: b :: t => (a + 16 * b) :: nibbles t
  | [a] => [a]
  | [] => []

/-- One block of 32 elements, and whether it is a NaN block. -/
def bxBlock (bx4 : Bool) (xs : List Val) : List (BitVec 8) × Bool :=
  let xs := xs ++ List.replicate (32 - xs.length) Val.zero
  let b (ns : List Nat) : List (BitVec 8) := ns.map (BitVec.ofNat 8)
  if xs.any fun x => x.isNan || x.isInf then (b (255 :: List.replicate (if bx4 then 16 else 32) 0), true)
  else
    let E := bxExp bx4 xs
    let es := xs.map (bxElem bx4 E)
    (b (E :: (if bx4 then nibbles es else es)), false)

/-- A stream in blocks of 32: payload and NaN blocks. -/
def bxEncode (bx4 : Bool) : Nat → List Val → List (BitVec 8) × Nat
  | 0, _ => ([], 0)
  | n + 1, xs =>
    let (b, nan) := bxBlock bx4 (xs.take 32)
    let (r, k) := bxEncode bx4 n (xs.drop 32)
    (b ++ r, k + b2n nan)

/-- An element of a block (R229, R230, R232). -/
def bxValue (bx4 : Bool) (E v : Nat) : Val :=
  if E = 255 then .nan
  else
    let h := if bx4 then 8 else 128
    .fin (v ≥ h) (v % h) ((E : Int) - bxBias bx4)

/-- Decoded elements of n blocks, with the NaN flag. -/
def bxDecode (bx4 : Bool) : Nat → List (BitVec 8) → List Val
  | 0, _ => []
  | n + 1, b =>
    let sz := if bx4 then 17 else 33
    let E := (b.headD 0).toNat
    let body := ((b.take sz).drop 1).map (·.toNat)
    let es := if bx4 then body.flatMap fun x => [x % 16, x / 16] else body
    es.map (bxValue bx4 E) ++ bxDecode bx4 n (b.drop sz)

/-! ### ZR (R234, R425) -/

def dwords (n : Nat) (b : List (BitVec 8)) : List Nat := slices 4 n b

/-- One block of 256 bytes. -/
def zrBlock (b : List (BitVec 8)) : List (BitVec 8) :=
  let b := b ++ List.replicate (256 - b.length) 0
  let ds := dwords 64 b
  let nz := (ds.filter fun d => d != 0).length
  if nz = 0 then leBytes 4 1
  else if nz ≤ 61 then
    let map := (ds.zipIdx).foldl (fun m x => if x.1 != 0 then m + 2 ^ x.2 else m) 0
    leBytes 4 (2 + 4 * nz) ++ leBytes 8 map ++ (ds.filter fun d => d != 0).flatMap (leBytes 4)
  else leBytes 4 (4 * nz) ++ b

def zrEncode : Nat → List (BitVec 8) → List (BitVec 8)
  | 0, _ => []
  | n + 1, b => zrBlock (b.take 256) ++ zrEncode n (b.drop 256)

/-- Dwords laid out by a map. -/
def unmap (map : Nat) : Nat → Nat → List Nat → List Nat
  | 0, _, _ => []
  | n + 1, i, ds =>
    if map.testBit i then (match ds with
      | d :: t => d :: unmap map n (i + 1) t
      | [] => 0 :: unmap map n (i + 1) [])
    else 0 :: unmap map n (i + 1) ds

/-- One encoded block: its 256 bytes and its length; none when it is not a valid encoding (R425). -/
def zrTake (b : List (BitVec 8)) : Option (List (BitVec 8) × Nat) :=
  if b.length < 4 then none
  else
    let w := ofBytes (b.take 4)
    let nz := w / 4 % 128
    if w ≥ 512 then none
    else
      match w % 4 with
      | 1 => if nz = 0 then some (List.replicate 256 0, 4) else none
      | 2 =>
        let map := ofBytes ((b.drop 4).take 8)
        let bits := ((List.range 64).filter fun i => map.testBit i).length
        if b.length < 12 + 4 * nz || bits != nz || nz = 0 || nz > 61 then none
        else some ((unmap map 64 0 (dwords nz (b.drop 12))).flatMap (leBytes 4), 12 + 4 * nz)
      | 0 =>
        let raw := (b.drop 4).take 256
        if b.length < 260 || nz < 62 || ((dwords 64 raw).filter fun d => d != 0).length != nz then none
        else some (raw, 260)
      | _ => none

/-- Leading bytes in which two lists agree. -/
def agree : List (BitVec 8) → List (BitVec 8) → Nat
  | a :: x, b :: y => if a = b then agree x y + 1 else 0
  | _, _ => 0

/-- The raw stream of n blocks, of whose payload the first `lim` bytes are as they were at decode: from a block that is
invalid, or reaches beyond those bytes, on, bytes are free (R425). -/
def zrDecode (ctr : Nat) : Nat → List (BitVec 8) → Nat → Nat → List (BitVec 8)
  | 0, _, _, _ => []
  | n + 1, b, lim, at_ =>
    match (zrTake b).filter (·.2 ≤ lim) with
    | some (x, k) => x ++ zrDecode ctr n (b.drop k) (lim - k) (at_ + 256)
    | none => (List.range (256 * (n + 1))).map fun i => Config.openByte ctr (at_ + i)

/-- A BX payload of which the first `lim` bytes are as they were at decode: free from the block with the first other byte
on (R425). -/
def bxOpen (ctr : Nat) (bx4 : Bool) (b : List (BitVec 8)) (lim : Nat) : List (BitVec 8) :=
  if b.length ≤ lim then b
  else
    let k := lim / (if bx4 then 17 else 33) * (if bx4 then 17 else 33)
    b.take k ++ (List.range (b.length - k)).map fun i => Config.openByte ctr (k + i)

/-! ### Records (R228, R235, R236) -/

/-- Largest payload of n elements of `esz` bytes. -/
def stashPayload (sfmt n esz : Nat) : Nat :=
  match sfmt with
  | 0 => 33 * ((n + 31) / 32)
  | 1 => 17 * ((n + 31) / 32)
  | _ => 260 * ((n * esz + 255) / 256)

def up64 (n : Nat) : Nat := (n + 63) / 64 * 64

def stashSize (sfmt n esz : Nat) : Nat := up64 (64 + stashPayload sfmt n esz)

def State.inStash (s : State) (a n : Nat) : Bool := s.regions.stashBase ≤ a && a + n ≤ s.regions.stashBase + s.regions.stashSize

/-- Offences common to both (Table OPC-12). -/
def stashOffs (p : Pkt) : List Off :=
  off (p.w 2 % 4 = 3) 2 0 ++ rsv p 2 0x3 ++ rsv p 3 0 ++ slotOffs p 0 .tensor ++ off (p.w 12 % 64 != 0) 12 0 ++
  rsv p 13 0xFF ++ rsv p 15 0

def State.saveDec (s : State) (p : Pkt) : Dec :=
  let t := tdesc p 0 .tensor
  let w := stashSize (p.w 2 % 4) (t.len * t.rows) t.esz
  { offs := stashOffs p ++ strideOffs 0 t ++ off (!s.inStash (p.a40 12) w) 12 0 ++ off (p.w 14 != 0 && w > p.w 14 * 1024) 14 0 ++
      off (p.w 2 % 4 < 2 && p.w 11 % 16 > 2) 11 0,
    extents := [(t.base, t.extent), (p.a40 12, w)], reach := [(t, false)] }

/-- Elements of a tensor in row order. -/
def State.readTensor (s : State) (src : Src) (t : TDesc) : Nat → Nat → List Nat → Option Nat → List Nat × Option Nat × State
  | 0, _, acc, e => (acc, e, s)
  | n + 1, r, acc, e =>
    let (b, e', s) := s.readOperand src t r 0 t.len
    s.readTensor src t n (r + 1) (acc ++ b) (match e with | some a => some a | none => e')

def stashHeader (p : Pkt) (t : TDesc) (sfmt nans payload : Nat) : List (BitVec 8) :=
  leBytes 1 sfmt ++ leBytes 1 1 ++ leBytes 1 p.part ++ leBytes 1 0 ++ leBytes 4 t.fmtWord.toNat ++ leBytes 8 t.len ++
  leBytes 4 t.rows ++ leBytes 4 nans ++ leBytes 8 (t.len * t.rows) ++ leBytes 8 payload ++ List.replicate 24 0

def stashSrc (p : Pkt) : Src := { part := some p.part, hint := .evictFirst, pkt := some p.id }

/-- The bytes by which a record of n bytes is rounded up to 64 (R228): the manual gives them no contents (log 100). -/
def State.padRecord (s : State) (p : Pkt) (n : Nat) : Option Nat × State :=
  let s := s.draw
  s.writeBytes { stashSrc p with pkt := none } (p.a40 12 + n) ((List.range (up64 n - n)).map fun i => Config.openByte s.free i)

def State.stashSave (s : State) (p : Pkt) : State :=
  let t := tdesc p 0 .tensor
  let sfmt := p.w 2 % 4
  let n := t.len * t.rows
  match s.readTensor (stashSrc p) t t.rows 0 [] none with
  | (_, some a, s) => s.compFail p.id .eccUncorr a
  | (bits, none, s) =>
    let (payload, nans) : List (BitVec 8) × Nat :=
      if sfmt = 2 then (zrEncode ((n * t.esz + 255) / 256) (elemBytes t.esz bits), 0)
      else bxEncode (sfmt = 1) ((n + 31) / 32) (bits.map t.d.read)
    match s.writeBytes (stashSrc p) (p.a40 12) (stashHeader p t sfmt nans payload.length ++ payload) with
    | (some a, s) => s.compFail p.id .eccUncorr a
    | (none, s) =>
      match s.padRecord p (64 + payload.length) with
      | (some a, s) => s.compFail p.id .eccUncorr a
      | (none, s) => s.endPkt p.id .ok (up64 (64 + payload.length)) n { nanSeen := nans > 0 }

def saveBody : OpBody := {
  sel := selOp 0x40
  dec := fun s p => s.saveDec p
  body := fun s p => s.stashSave p }
def execStashSave (h : Nat) (s : State) : Host.Outcome State Fault Refusal := s.onHopper h saveBody

def State.peek (s : State) (a n : Nat) : List (BitVec 8) := (List.range n).map fun i => s.peekByte (a + i)

/-- The record's header fails the packet (R236). -/
def State.headerBad (s : State) (p : Pkt) (h : List (BitVec 8)) : Bool :=
  let t := tdesc p 0 .tensor
  let sfmt := p.w 2 % 4
  let n := t.len * t.rows
  let pay := byteAt h 0x20 8
  let code := byteAt h 4 4 % 16
  let esz := ((Fmt.ofCode code).getD .fp32).bytes
  byteAt h 1 1 != 1 || byteAt h 0 1 != sfmt || byteAt h 2 1 != p.part || byteAt h 8 8 != t.len || byteAt h 0x10 4 != t.rows ||
  byteAt h 0x18 8 != n || (if sfmt = 2 then pay > stashPayload 2 n esz else pay != stashPayload sfmt n esz) ||
  !s.inStash (p.a40 12) (64 + pay) || (sfmt = 2 && p.w 11 % 16 != code)

def State.loadDec (s : State) (p : Pkt) : Dec :=
  let t := tdesc p 0 .tensor
  let h := s.peek (p.a40 12) 64
  { offs := stashOffs p ++ strideOffs 0 t ++ off (s.headerBad p h) 12 0 ++ off (p.w 14 != 0) 14 0 ++
      srFreeOffs s.replay.armed.isSome t.rnd 11 4,
    extents := [(t.base, t.extent), (p.a40 12, 64 + byteAt h 0x20 8)], reach := [(t, true)] }

/-- Rows of a decoded stream, written in order. -/
def State.loadRows (s : State) (p : Pkt) (t : TDesc) (vals : List Val) (raw : List Nat) : Nat → Nat → Flags → Option Nat × Flags × State
  | 0, _, f => (none, f, s)
  | n + 1, r, f =>
    let key : Key := { mode := t.rnd, word := keyword p.seed (BitVec.ofNat 64 r), ctr := s.free }
    let res : List (Nat × Flags) :=
      if p.w 2 % 4 = 2 then ((raw.drop (r * t.len)).take t.len).map fun b => (b, {})
      else (((vals.drop (r * t.len)).take t.len).zipIdx).map fun x => t.d.write (key.at x.2 0 3 0) x.1
    match s.writeBytes (stashSrc p) (t.addr r 0) (elemBytes t.esz (res.map (·.1))) with
    | (some a, s) => (some a, f, s)
    | (none, s) => s.loadRows p t vals raw n (r + 1) (f.or (orFlags (res.map (·.2))))

/-- The elements as decoded from the payload; a byte of it that changed since decode, with no order for the writer to rest
on, leaves its block and the later ones free (R425, log 23). -/
def State.stashLoad (s : State) (p : Pkt) : State :=
  let t := tdesc p 0 .tensor
  let sfmt := p.w 2 % 4
  let n := t.len * t.rows
  let pay := byteAt p.hdr 0x20 8
  let (_, e0, s) := s.readBytes (stashSrc p) (p.a40 12) 64
  let (b, e1, s) := s.readBytes (stashSrc p) (p.a40 12 + 64) pay
  match [e0, e1].filterMap id with
  | a :: _ => s.compFail p.id .eccUncorr a
  | [] =>
    let lim := (p.pay0.map (agree b)).getD b.length
    let vals := if sfmt = 2 then [] else (bxDecode (sfmt = 1) ((n + 31) / 32) (bxOpen s.free (sfmt = 1) b lim)).take n
    let raw := if sfmt = 2 then slices t.esz n (zrDecode s.free ((n * t.esz + 255) / 256) b lim 0) else []
    match s.draw.loadRows p t vals raw t.rows 0 {} with
    | (some a, _, s) => s.compFail p.id .eccUncorr a
    | (none, f, s) => s.endPkt p.id .ok n (up64 (64 + pay)) { f with nanSeen := f.nanSeen || vals.any Val.isNan }

def loadBody : OpBody := {
  sel := selOp 0x41
  dec := fun s p => s.loadDec p
  atDecode := fun s p =>
    let hdr := s.peek (p.a40 12) 64
    s.modPkt p.id fun q => { q with
      hdr := hdr, pay0 := if s.unblocked p then some (s.peek (p.a40 12 + 64) (byteAt hdr 0x20 8)) else none }
  body := fun s p => s.stashLoad p }
def execStashLoad (h : Nat) (s : State) : Host.Outcome State Fault Refusal := s.onHopper h loadBody

end Sys2Proof.Machine
end

