-- ==== Sys2Proof/Machine/Replay.lean ====
section
/-!
DEFINITION. REPLAY_ARM, recording, REPLAY_RUN (09 R266 to R268, 07 R182 to R184). Log 72: the layout of the two halves of
the replay buffer and of the digest's last word.
-/
namespace Sys2Proof.Machine

/-! ### REPLAY_ARM -/

def armOffs (s : State) (p : Pkt) : List Off :=
  let stop := bit (p.w 2) 0
  off (s.replay.armed.isSome && !stop) 0 0 ++ rsv p 2 1 ++
  (if stop then rsv p 3 0 else off (p.w 3 = 0 || p.w 3 > 4096) 3 0) ++ rsvAll p 4 16 []

def State.replayArm (s : State) (p : Pkt) : State :=
  if bit (p.w 2) 0 then s.endRecording.endPkt p.id .ok 0 0
  else
    let s : State := { s with replay := { armed := some (p.hop, p.w 3, p.part), part := p.part } }
    s.endPkt p.id .ok (p.w 3) 0

def armBody : OpBody := {
  sel := selOp 0x5A
  dec := fun s p => { offs := armOffs s p }
  body := fun s p => s.replayArm p }
def execReplayArm (h : Nat) (s : State) : Host.Outcome State Fault Refusal := s.onHopper h armBody

/-- REPLAY_COUNT_REACHED: recording ends once COUNT packets have been recorded (R266). -/
def replayCountReached (s : State) : State :=
  match s.replay.armed with
  | some (_, count, _) => if s.replay.recs.length ≥ count then s.endRecording else s
  | none => s
def execReplayCountReached (s : State) : Host.Outcome State Fault Refusal := noted true (replayCountReached s)

/-! ### Recording -/

/-- The byte a log of reads or writes gives an address: the first entry that holds it. -/
def loggedByte : List (Nat × List (BitVec 8)) → Nat → Option (BitVec 8)
  | [], _ => none
  | (a, b) :: t, x => if a ≤ x ∧ x < a + b.length then some (b.getD (x - a) 0) else loggedByte t x

/-- Bytes of [a, a + n) that a log of writes holds, as last written. -/
def loggedBytes (log : List (Nat × List (BitVec 8))) (a n : Nat) : List (BitVec 8) :=
  (List.range n).filterMap fun i => loggedByte log.reverse (a + i)

/-- Copy of a parameter page that was the current one at the packet's dispatch. -/
def Pkt.gen0 (p : Pkt) (pg : Nat) : Bool := pgGen (((p.pages0.find? fun x => x.1 = pg).map (·.2)).getD 0x8)

/-- Parameter bytes of [a, a + n) that an update wrote, in the copies that were not current (R254). -/
def State.updOutputs (s : State) (p : Pkt) (a n : Nat) : List (BitVec 8) :=
  (pageParts s.regions.paramBase a n).flatMap fun x => loggedBytes p.wrLog (s.paramCopy (!p.gen0 x.1) x.2.1) x.2.2

/-- Output ranges of a collective (R240, R243, R244). -/
def State.collOutputs (s : State) (p : Pkt) : List (BitVec 8) :=
  let n := max s.herd.members.length 1
  if p.op = 0x48 then loggedBytes p.wrLog (p.a40 4) (p.a40 6)
  else if p.op = 0x49 then loggedBytes p.wrLog (p.a40 8) (p.a40 6 * n)
  else loggedBytes p.wrLog (p.a40 8) (p.a40 6 / n)

/-- A packet's outputs in slot order and element order (R267): tensors, buckets and shards, parameters and moments, pages;
those of the other opcodes are written in that order. -/
def State.outputsOf (s : State) (p : Pkt) : List (BitVec 8) :=
  match p.work, s.compOf p with
  | some _, some _ =>
    ((s.decodeComp p false).reach.filter (·.2)).flatMap fun (t, _) =>
      (List.range t.rows).flatMap fun r => loggedBytes p.wrLog (t.addr r 0) t.rowBytes
  | _, _ =>
    if [0x48, 0x49, 0x4A].contains p.op then s.collOutputs p
    else if p.op = 0x50 then
      let u := updOf p
      (u.pranges ++ [u.mrange]).flatMap fun x => s.updOutputs p x.1 x.2
    else if p.op = 0x59 then
      (List.range s.paramPages).flatMap fun pg =>
        loggedBytes p.wrLog (s.paramCopy (p.gen0 pg) (s.regions.paramBase + pg * 65536)) 65536
    else p.wrLog.flatMap (·.2)

/-- The words of a byte string, the last zero-padded. -/
def wordsOf : Nat → List (BitVec 8) → List (BitVec 64)
  | 0, _ => []
  | n + 1, b => if b = [] then [] else BitVec.ofNat 64 (ofBytes (b.take 8)) :: wordsOf n (b.drop 8)

/-- STATUS and the flag bits as dword 0 of a reply places them. -/
def statusWord (st : Status) (f : Flags) : BitVec 64 :=
  BitVec.ofNat 64 (st.code <<< 16 + (b2n f.ovf) <<< 24 + (b2n f.sat) <<< 25 + (b2n f.nanSeen) <<< 26 +
    (b2n f.emptyRow) <<< 27 + (b2n f.dupFill) <<< 28)

/-- The digest (R267). -/
def digestOf (outs : List (BitVec 8)) (st : Status) (f : Flags) : BitVec 64 :=
  (wordsOf outs.length outs ++ [statusWord st f]).foldl (fun d w => mix64 (d ^^^ w)) 0

/-- Capture: bytes read, each as first read, without those an earlier recorded packet wrote (R266). -/
def captureOf (earlier : List Rec) : List (Nat × List (BitVec 8)) → List (Nat × List (BitVec 8)) → List (Nat × List (BitVec 8))
  | _, [] => []
  | seen, (a, b) :: t =>
    let new := (b.zipIdx).filterMap fun (v, i) =>
      if (loggedByte seen (a + i)).isSome || earlier.any (fun r => (loggedByte r.writes (a + i)).isSome) then none
      else some (a + i, [v])
    new ++ captureOf earlier (seen ++ [(a, b)]) t

/-- Opcodes that a replay executes again: the others changed herd, generation, device or cache state, or have no outputs
of their own making (R250, R268). DEDUCED, log 123: a packet that ended in an error is not executed again either. -/
def replayable (op : Nat) : Bool :=
  [0x10, 0x11, 0x12, 0x13, 0x18, 0x20, 0x21, 0x28, 0x29, 0x2A, 0x2B, 0x2C, 0x38, 0x40, 0x41, 0x50].contains op

/-- A record goes into the lower half of the buffer, its layout left open (R266, log 72). -/
def State.storeRecord (s : State) (p : Pkt) (n : Nat) : State :=
  (s.draw.rawWrite { part := some p.part, hint := .evictFirst } (n / 32 + 2) (s.regions.replayBase + s.replay.used)
    ((List.range n).map fun i => Config.openByte s.free i)).2

/-- A packet of the armed Hopper is recorded as it completes; when its record does not fit, recording ends, truncated
(R266). -/
def State.recordPkt (s : State) (p : Pkt) : State :=
  if !p.recd || (s.replay.armed.map (·.1)) != some p.hop then s
  else
    let reads := captureOf s.replay.recs [] p.rdLog
    let outs := s.outputsOf p
    let herdCtx := p.op = 0x10 && ((s.ctx p.ctx).map (·.herd)).getD false
    let r : Rec := {
      hop := p.hop, cls := p.cls, func := p.func, dw := p.dw, seed := p.seed, reads := reads, writes := p.wrLog,
      outs := outs, digest := digestOf outs p.status p.flags, ctx := p.ctx, status := p.status, flags := p.flags,
      r0 := p.r0, r1 := p.r1, pages := p.pages0,
      engines := (p.work.map (·.m.length)).getD (s.unfenced p.part).length,
      resident := p.work.isSome && ((s.compOf p).map Comp.resident).getD false,
      again := replayable p.op && p.status.good && !herdCtx }
    let size := 64 * p.units + 16 + reads.length
    if s.replay.used + size > s.regions.replaySize / 2 then
      { s.endRecording with replay := { s.endRecording.replay with truncated := true } }
    else
      let s := s.storeRecord p size
      { s with replay := { s.replay with recs := s.replay.recs ++ [r], used := s.replay.used + size } }

/-! ### REPLAY_RUN -/

/-- Byte runs written over HBM. -/
def overlay (l : List (Nat × List (BitVec 8))) (m : List Host.Cell) : List Host.Cell :=
  l.foldl (fun m x => writeCells 0 m x.1 x.2) m

/-- The engines of the partition around a replay: empty caches and contexts, memory of captured bytes alone. -/
def State.replayState (s : State) : State :=
  let p := s.replay.part
  { State.reset with
    parts := s.parts.map fun q => { q with spread := false, frames := [], roLatched := [] }
    engines := s.engines.map fun g => { fenced := g.fenced }
    mem := { owner := List.replicate 96 p }
    regions := { stashBase := s.regions.stashBase, stashSize := s.regions.stashSize,
                 paramBase := s.regions.paramBase, paramSize := s.regions.paramSize }
    time := s.time
    free := s.free }

/-- One round of the partition's engines. -/
def State.spin (s : State) (e : Nat) : State :=
  segmentEnd e (pageIn e (pageOut e (carryNode e (pendingFreed e (tailraceDrain e 0 (tileComplete e 0 (segmentDispatch e
    (ctxSlotFreed e s))))))))

/-- The engines run until the packet has ended. -/
def State.runToEnd (s : State) (id : Nat) : Nat → State
  | 0 => s
  | n + 1 =>
    match s.pkt id with
    | some p => if p.stage = .ended then s else ((List.range 8).foldl State.spin s).runToEnd id n
    | none => s

/-- The body of a replayed opcode. -/
def replayBody (op : Nat) : OpBody :=
  if op = 0x10 then openBody else if op = 0x11 then feedBody else if op = 0x12 then closeBody
  else if op = 0x13 then queryBody else if op = 0x40 then saveBody else if op = 0x41 then loadBody
  else if op = 0x50 then updateBody else compBody op fun _ => false

/-- The handle in a packet's header. -/
def renamed (h : Nat) (dw : List (BitVec 32)) : List (BitVec 32) :=
  dw.set 1 (BitVec.ofNat 32 ((dw.getD 1 0).toNat % 65536 + h * 65536))

/-- A replay under way: the state around it, recorded and replayed handles of open contexts, outputs, first divergence. -/
structure Replaying where
  s : State
  map : List (Nat × Nat) := []
  outs : List (BitVec 8) := []
  next : Nat := 0
  bad : Option Nat := none

/-- One recorded packet is executed again; none when its context is not part of the replay. -/
def Replaying.execute (x : Replaying) (part : Nat) (r : Rec) : Option (Pkt × State) :=
  let w := (r.dw.getD 0 0).toNat % 256
  let h := (r.dw.getD 1 0).toNat / 65536
  let hit := x.map.find? fun m => m.1 = h
  if !r.again || (w ≥ 0x11 && w ≤ 0x13 && hit.isNone) then none
  else
    let dw := match hit with | some m => if w ≥ 0x11 && w ≤ 0x13 then renamed m.2 r.dw else r.dw | none => r.dw
    let p : Pkt := { id := 0, hop := r.hop, cls := r.cls, part := part, func := r.func, dw := dw, seed := r.seed,
                     stage := .decoded, recd := true, pages0 := r.pages }
    let o := replayBody w
    let s := x.s.modMem fun m => { m with hbm := overlay r.reads m.hbm, lines := [], wq := [] }
    let s : State := { s with regions := { s.regions with pages := r.pages } }
    let s := o.atDecode { s with pkts := [p] } p
    let s := s.modPkt 0 fun q => { q with stage := .running }
    let s := o.body s ((s.pkt 0).getD p)
    let n := match s.compOf p with | some c => (c.tiles + 1) * (c.rowCount + 1) * 16 + 64 | none => 4
    let s := s.runToEnd 0 n
    match s.pkt 0 with
    | some q => some (q, { s with pkts := [], mem := { s.mem with
        hbm := overlay q.wrLog s.mem.hbm, lines := [], wq := [], flight := [] } })
    | none => none

def Replaying.step (x : Replaying) (part : Nat) (r : Rec) : Replaying :=
  match x.execute part r with
  | none =>
    { x with s := x.s.modMem fun m => { m with hbm := overlay r.writes (overlay r.reads m.hbm) }
             outs := x.outs ++ r.outs, next := x.next + 1 }
  | some (q, s) =>
    let o := s.outputsOf q
    let moved := r.resident && r.engines != (s.unfenced part).length
    let differs := moved || digestOf o q.status q.flags != r.digest
    let map := if q.op = 0x10 then x.map ++ [(r.ctx, q.ctx)]
      else if q.op = 0x12 then x.map.filter fun m => m.2 != q.handle else x.map
    { s := s, map := map, outs := x.outs ++ o, next := x.next + 1,
      bad := if x.bad.isNone && differs then some x.next else x.bad }

def replayRunOffs (s : State) (p : Pkt) : List Off :=
  let out := s.replay.recs.foldl (fun n r => n + r.outs.length) 0
  off (s.replay.recs = [] || out > s.regions.replaySize / 2) 0 0 ++
  off (s.replay.recs != [] && p.part != s.replay.part) 1 4 ++ rsv p 2 1 ++ rsvAll p 3 16 []

/-- REPLAY_RUN: outputs go to the upper half of the buffer, in record order (R268). -/
def State.replayRun (s : State) (p : Pkt) : State :=
  let x := s.replay.recs.foldl (fun x r => Replaying.step x s.replay.part r) ({ s := s.replayState } : Replaying)
  let s : State := { s with free := x.s.free }
  let src : Src := { part := some p.part, hint := .evictFirst }
  match s.rawWrite src (x.outs.length / 32 + 2) (s.regions.replayBase + s.regions.replaySize / 2) x.outs with
  | (some a, s) => s.endPkt p.id .eccUncorr a 0
  | (none, s) =>
    let bad := if bit (p.w 2) 0 then x.bad else none
    s.endPkt p.id .ok s.replay.recs.length (bad.getD (2 ^ 64 - 1))

def runBody : OpBody := {
  sel := selOp 0x5B
  dec := fun s p => { offs := replayRunOffs s p }
  body := fun s p => s.replayRun p }
def execReplayRun (h : Nat) (s : State) : Host.Outcome State Fault Refusal := s.onHopper h runBody

end Sys2Proof.Machine
end

