-- ==== Sys2Proof/Machine/ConfigSet.lean ====
section
/-!
DEFINITION. The items of CONFIG_SET (07 R185, R187; 08 R189 to R192, R215, R424; 09 R252; 11 R305, R307, R314; 13 R355,
R357).
-/
namespace Sys2Proof.Machine

/-- Every Hopper that another function than the physical one owns is disabled (R187). -/
def State.tenantsOff (s : State) : Bool := s.hops.all fun k => !k.en || k.func = 0

/-- Reserved bits of an item whose fields are dword 3 (mask `m3`) and, when `range` is set, a base and a size. -/
def itemRsv (p : Pkt) (m3 : Nat) (base size : Bool) : List Off :=
  rsv p 2 0xFF ++ rsv p 3 m3 ++
  (if base then rsv p 5 0xFF else rsv p 4 0 ++ rsv p 5 0) ++ (if size then rsv p 7 0xFF else rsv p 6 0 ++ rsv p 7 0) ++
  rsvAll p 8 16 []

/-- One item: its value, whether R187 ties it to disabled Hoppers, its offences, its effect. An ITEM outside Table OPC-13 is
judged by whichever item's command comes (log 73). -/
def itemBody (n : Nat) (offs : State → Pkt → List Off) (f : State → Pkt → State) : OpBody := {
  sel := fun p => p.op = 0x7F && (p.item = n || p.item = 0 || p.item > 10)
  dec := fun s p =>
    if p.item != n then { offs := [(2, 0)] }
    else { offs := off (n ≤ 7 && !s.tenantsOff) 2 0 ++ offs s p }
  body := fun s p => (f s p).endPkt p.id .ok 0 0 }

/-! ### PARTITION_MAP (R305, R307) -/

def mapOffs (s : State) (p : Pkt) : List Off :=
  let n := p.w 3 % 8
  let mask := field (p.w 3) 15 8
  let f := field (p.w 3) 19 16
  let others := (List.range 8).filter fun q => q != n && (s.part q).mapped
  itemRsv p 0x000FFF07 false false ++
  off (others.any fun q => (s.part q).mask.toNat &&& mask != 0) 3 8 ++
  off (mask != 0 && others.any fun q => (s.part q).func = f) 3 16

/-- A partition that loses an engine is emptied first; an engine in no partition stays power-gated. -/
def State.partitionMap (s : State) (p : Pkt) : State :=
  let n := p.w 3 % 8
  let s := if (s.part n).mask.toNat &&& (0xFF ^^^ field (p.w 3) 15 8) != 0 then s.emptyPart n else s
  (s.itemRegs p).gateEngines

def execPartitionMap (h : Nat) (s : State) : Host.Outcome State Fault Refusal :=
  s.onHopper h (itemBody 1 mapOffs State.partitionMap)

/-! ### PLACEMENT (R191) -/

/-- Every granule of partition n lies in a row that it owns whole, under the owners given. -/
def wholeRows (owner : List Nat) (n : Nat) : Bool :=
  (List.range 24).all fun j =>
    let r := [j, j + 24, j + 48, j + 72].map fun g => owner.getD g 0xF
    !r.contains n || r.all fun x => x = n

def placementOffs (s : State) (p : Pkt) : List Off :=
  itemRsv p 0x107 false false ++ off (bit (p.w 3) 8 && !wholeRows s.mem.owner (p.w 3 % 8)) 3 8

def execPlacement (h : Nat) (s : State) : Host.Outcome State Fault Refusal :=
  s.onHopper h (itemBody 2 placementOffs State.itemRegs)

/-! ### Carve-outs (R192, R424) -/

def Carve.meets (c d : Carve) : Bool := c.base < d.base + d.bytes && d.base < c.base + c.bytes && c.bytes != 0 && d.bytes != 0

/-- Offences of a device carve-out: alignment, reach of HBM, granules of a partition, overlap, use. -/
def carveOffs (s : State) (new old : Carve) (others : List Carve) (sizeBad inUse : Bool) : List Off :=
  off (old.bytes != 0 && inUse) 2 0 ++ off (new.base % gib != 0) 4 0 ++ off sizeBad 6 0 ++
  off (new.bytes != 0 && new.base + new.bytes > hbmSize) 4 0 ++
  off (new.bytes != 0 && new.base + new.bytes ≤ hbmSize &&
    ((granulesOf new.base new.bytes).any (fun g => s.mem.owner.getD g 0xF < 8) || others.any fun c => c.meets new)) 4 0

/-- Checkpoint or restore traffic runs between this device and its twin. -/
def State.ckptTraffic (s : State) : Bool :=
  s.train.ckpt.isSome || s.train.restore.isSome || s.train.held.any fun c => !c.complete

def stashOffsOf (s : State) (p : Pkt) : List Off :=
  itemRsv p 0 true true ++
  carveOffs s { base := p.a40 4, bytes := p.a40 6 } s.stashCarve [s.replayCarve, s.ckptCarve, s.paramCarve]
    (p.a40 6 % gib != 0) false

/-- STASH_REGION. -/
def execStashRegion (h : Nat) (s : State) : Host.Outcome State Fault Refusal :=
  s.onHopper h (itemBody 3 stashOffsOf State.itemRegs)

def overflowOffs (s : State) (p : Pkt) : List Off :=
  let n := p.w 3 % 8
  let base := p.a40 4
  let size := p.a40 6
  itemRsv p 7 true true ++ off ((s.part n).ovSize != 0 && (s.part n).frames != []) 2 0 ++ off (base % 65536 != 0) 4 0 ++
  off (size % 65536 != 0 || (size != 0 && size < 2 ^ 20)) 6 0 ++ off (base + size > hbmSize) 4 0 ++
  off (base + size ≤ hbmSize && (granulesOf base size).any fun g => s.mem.owner.getD g 0xF != n) 4 0

/-- OVERFLOW_REGION. -/
def execOverflowRegion (h : Nat) (s : State) : Host.Outcome State Fault Refusal :=
  s.onHopper h (itemBody 4 overflowOffs State.itemRegs)

def replayOffs (s : State) (p : Pkt) : List Off :=
  itemRsv p 0 true true ++
  carveOffs s { base := p.a40 4, bytes := p.a40 6 } s.replayCarve [s.stashCarve, s.ckptCarve, s.paramCarve]
    (p.a40 6 % gib != 0) s.replay.armed.isSome

/-- REPLAY_BUFFER. -/
def execReplayBuffer (h : Nat) (s : State) : Host.Outcome State Fault Refusal :=
  s.onHopper h (itemBody 5 replayOffs State.itemRegs)

def reserveOffs (s : State) (p : Pkt) : List Off :=
  itemRsv p 0 true false ++
  carveOffs s { base := p.a40 4, bytes := 8 * gib } s.ckptCarve [s.stashCarve, s.replayCarve, s.paramCarve] false
    (s.herd.formed || s.ckptTraffic)

/-- CHECKPOINT_RESERVE. -/
def execCheckpointReserve (h : Nat) (s : State) : Host.Outcome State Fault Refusal :=
  s.onHopper h (itemBody 6 reserveOffs State.itemRegs)

def paramOffs (s : State) (p : Pkt) : List Off :=
  itemRsv p 0 true true ++
  carveOffs s { base := p.a40 4, bytes := 2 * p.a40 6 } s.paramCarve [s.stashCarve, s.replayCarve, s.ckptCarve]
    (p.a40 6 % gib != 0 || p.a40 6 > 7 * gib) (s.herd.formed || s.ckptTraffic)

/-- PARAM_REGION. -/
def execParamRegion (h : Nat) (s : State) : Host.Outcome State Fault Refusal :=
  s.onHopper h (itemBody 7 paramOffs State.itemRegs)

/-! ### TICK_SOURCE (R314), PRESSURE_DEMOTE (R215) -/

def flagOffs (_ : State) (p : Pkt) : List Off := itemRsv p 0x107 false false

def execTickSource (h : Nat) (s : State) : Host.Outcome State Fault Refusal :=
  s.onHopper h (itemBody 8 flagOffs State.itemRegs)

def execPressureDemote (h : Nat) (s : State) : Host.Outcome State Fault Refusal :=
  s.onHopper h (itemBody 9 flagOffs State.itemRegs)

/-! ### PROTECTED_REGION (R355, R357) -/

def protectOffs (s : State) (p : Pkt) : List Off :=
  let n := p.w 3 % 16
  let k := s.sec.slots.getD (field (p.w 3) 11 8) {}
  let base := p.a40 4
  let size := p.a40 6
  let clash := (s.sec.regions.zipIdx).any fun (r, i) => i != n && r.enable && r.base < base + size && base < r.base + r.size
  itemRsv p 0x1F0F true true ++
  (if bit (p.w 3) 12 then
    off (s.mode = .debugOpen) 3 12 ++ off (k.state != 2) 3 8 ++ off (base % 65536 != 0) 4 0 ++ off (size = 0 || size % 65536 != 0) 6 0 ++
    off (base + size > hbmSize || clash || (granulesOf base size).any fun g => s.mem.owner.getD g 0xF != k.owner) 4 0
   else [])

/-- A region's range leaves every cache under its state before the change. -/
def Region.leave (r : Region) (s : State) : State := if r.enable then s.flushOut r.base r.size else s

/-- A region is defined once its old and its new range have left the caches (R357). -/
def State.protect (s : State) (p : Pkt) : State :=
  ((regionOf p).leave ((s.sec.regions.getD (p.w 3 % 16) {}).leave s)).itemRegs p

def execProtectedRegion (h : Nat) (s : State) : Host.Outcome State Fault Refusal :=
  s.onHopper h (itemBody 10 protectOffs State.protect)

end Sys2Proof.Machine
end

