-- ==== Sys2Proof/Machine/Control.lean ====
section
/-!
DEFINITION. The control opcodes and the engine opcodes (03 R64; 07 R167 to R171, R185, R186; 11 R308 to R314; 12 R332, R334).
-/
namespace Sys2Proof.Machine

/-! ### NOP, SR_SEED, UNLISTED_OPCODE -/

/-- NOP (R167). -/
def nopBody : OpBody := {
  sel := selOp 0x01
  dec := fun _ p => { offs := nopOffs p }
  body := fun s p => s.endPkt p.id .ok (p.q 2) 0 }
def execNop (h : Nat) (s : State) : Host.Outcome State Fault Refusal := s.onHopper h nopBody

/-- SR_SEED takes effect for packets decoded after it (R186). -/
def seedBody : OpBody := {
  sel := selOp 0x70
  dec := fun _ p => { offs := seedOffs p }
  atDecode := fun s p => s.modPart p.part fun q => { q with seed := BitVec.ofNat 64 (p.q 2) }
  body := fun s p => s.endPkt p.id .ok 0 0 }
def execSrSeed (h : Nat) (s : State) : Host.Outcome State Fault Refusal := s.onHopper h seedBody

/-- An opcode outside Table OPC-5 (R74): decoding answers BAD_OPCODE. -/
def unlistedBody : OpBody := {
  sel := fun p => (opInfo p.op).isNone
  body := fun s _ => s }
def execUnlistedOpcode (h : Nat) (s : State) : Host.Outcome State Fault Refusal := s.onHopper h unlistedBody

/-! ### FENCE (R64, R168) -/

/-- A dword read for a FENCE: HBM through L2, or host memory; the faulting sector on the left. -/
def State.readWord (s : State) (p : Pkt) (host : Bool) (a : Nat) : Nat × Option Nat × State :=
  if host then (ofBytes (readCells 0 s.host a 4), none, s)
  else
    let (b, e, s) := s.readBytes { part := some p.part, pkt := some p.id } a 4
    (ofBytes b, e, s)

/-- Bytes written to HBM through L2 or to host memory; the sector of a partial write into poison. -/
def State.writeOut (s : State) (p : Pkt) (host : Bool) (a : Nat) (bs : List (BitVec 8)) : Option Nat × State :=
  if host then (none, { s.emit (.hostWrite p.func a bs) with host := writeCells 0 s.host a bs })
  else s.writeBytes { part := some p.part, pkt := some p.id } a bs

/-- Packets a FENCE of scope PARTITION waits for: `pos` is the fetch count when it was decoded. One fetched later that
itself waits for the FENCE is not waited for. -/
def State.fenceScope (s : State) (p : Pkt) : Bool :=
  !bit (p.w 2) 0 || s.pkts.all fun q =>
    q.part != p.part || q.id = p.id || q.id ≥ p.pos ||
      (q.id > p.id && (q.isSp || q.isSd || q.serialAll || (q.op = 0x02 && bit (q.w 2) 0)))

/-- The last value a waiting FENCE has read. -/
def Pkt.lastRead (p : Pkt) : Nat := match p.wait with | .fence v => v | _ => 0

/-- An EPOCH_FENCE of the partition has been decoded and waits (R308): it ends a waiting FENCE. -/
def State.epochAhead (s : State) (p : Pkt) : Bool :=
  s.pkts.any fun q => q.part = p.part && q.op = 0x03 && q.stage = .decoded

/-- A FENCE judges its conditions in order (R64). -/
def State.fenceTry (s : State) (p : Pkt) : State :=
  let w := p.w 2
  if s.epochAhead p then s.endPkt p.id .ok 1 p.lastRead
  else if !s.fenceScope p then s.modPkt p.id fun q => { q with wait := .fence p.lastRead }
  else
    let (v, e, s) := if bit w 1 then s.readWord p (bit w 3) (p.q 4) else (0, none, s)
    match e with
    | some a => s.endPkt p.id .eccUncorr a 0
    | none =>
      if bit w 1 && v < p.w 6 then s.modPkt p.id fun q => { q with wait := .fence v }
      else if bit w 2 then
        match s.writeOut p (bit w 4) (p.q 8) (leBytes 4 (p.w 10)) with
        | (some a, s) => s.endPkt p.id .eccUncorr a 0
        | (none, s) => s.endPkt p.id .ok 0 v
      else s.endPkt p.id .ok 0 v

def fenceDec (p : Pkt) : Dec :=
  let w := p.w 2
  let hb : List (TDesc × Bool) :=
    (if bit w 1 && !bit w 3 then [(flat (p.a40 4) 4, false)] else []) ++
    (if bit w 2 && !bit w 4 then [(flat (p.a40 8) 4, true)] else [])
  { offs := fenceOffs p, extents := hb.map fun x => (x.1.base, 4), reach := hb }

def fenceBody : OpBody := {
  sel := selOp 0x02
  dec := fun _ p => fenceDec p
  atDecode := fun s p => s.modPkt p.id fun q => { q with pos := s.nextId }
  body := fun s p => s.fenceTry p
  resume := fun s p => s.fenceTry p }
def execFence (h : Nat) (s : State) : Host.Outcome State Fault Refusal := s.onHopper h fenceBody

/-- FENCE_POLL: a running FENCE reads its wait address again. -/
def fencePoll (h : Nat) (news : List Host.Cell) (s : State) : State :=
  (s.hostNews news).withFront h (selOp 0x02) fun p =>
    if p.stage = .running then (s.hostNews news).fenceTry p else s.hostNews news
def execFencePoll (h : Nat) (news : List Host.Cell) (s : State) : Host.Outcome State Fault Refusal :=
  noted (h < 256) (fencePoll h news s)

/-! ### EPOCH_FENCE (11 R308 to R312) -/

/-- Waiting FENCEs of the partition end (03 R64 Edges). -/
def State.endFences (s : State) (p : Nat) : State :=
  (s.pkts.filter fun q => q.part = p && q.op = 0x02 && q.stage = .running).foldl
    (fun s q => s.endPkt q.id .ok 1 q.lastRead) s

/-- Steps 2 to 6 of Table EPO-1, after the half of any of its engines has woken (12 R332). RESULT_1 is set as the reply is
written (R311). -/
def State.epochFence (s : State) (p : Pkt) : State :=
  let s := ((s.wakeFor (s.part p.part).mask.toNat).emptyPart p.part).modPart p.part fun q => { q with epochCount := q.epochCount + 1 }
  let n := (s.part p.part).epochCount.toNat
  let w := p.w 2
  if !bit w 0 then s.endPkt p.id .ok n 0
  else if !bit w 1 && (s.firstBad p.part true (p.a40 4) 4).isSome then s.endPkt p.id .memFault (p.a40 4) 0
  else
    match s.writeOut p (bit w 1) (p.q 4) (leBytes 4 (p.w 6)) with
    | (some a, s) => s.endPkt p.id .eccUncorr a 0
    | (none, s) => s.endPkt p.id .ok n 0

def epochBody : OpBody := {
  sel := selOp 0x03
  dec := fun _ p =>
    { offs := epochOffs p, extents := if bit (p.w 2) 0 && !bit (p.w 2) 1 then [(p.a40 4, 4)] else [] }
  atDecode := fun s p => s.endFences p.part
  body := fun s p => s.epochFence p }
def execEpochFence (h : Nat) (s : State) : Host.Outcome State Fault Refusal := s.onHopper h epochBody

/-! ### TIMESTAMP (R169), HERD_TIME (R183) -/

def State.herdWord (s : State) : Nat := b2n s.herd.formed + 2 * b2n s.herd.drift

def timestampBody : OpBody := {
  sel := selOp 0x04
  dec := fun _ p =>
    let hb := bit (p.w 2) 0 && !bit (p.w 2) 1
    { offs := timestampOffs p, extents := if hb then [(p.q 4, 8)] else [],
      reach := if hb then [(flat (p.q 4) 8, true)] else [] }
  body := fun s p =>
    let t := p.time0.toNat
    if bit (p.w 2) 0 then
      match s.writeOut p (bit (p.w 2) 1) (p.q 4) (leBytes 8 t) with
      | (some a, s) => s.endPkt p.id .eccUncorr a 0
      | (none, s) => s.endPkt p.id .ok t s.herdWord
    else s.endPkt p.id .ok t s.herdWord }
def execTimestamp (h : Nat) (s : State) : Host.Outcome State Fault Refusal := s.onHopper h timestampBody

def herdTimeBody : OpBody := {
  sel := selOp 0x62
  dec := fun _ p => { offs := fullOffs p [(2, 1)] }
  body := fun s p => s.endPkt p.id .ok s.now.toNat (b2n s.herd.drift + 2 * b2n s.herd.formed) }
def execHerdTime (h : Nat) (s : State) : Host.Outcome State Fault Refusal := s.onHopper h herdTimeBody

/-! ### Frame ticks (R170, 11 R313, R314) -/

/-- The tick source of a partition in force: PIN gives way to 1PPS. -/
def State.tickPin (s : State) (p : Nat) : Bool := (s.part p).tickPin && !s.ppsHolds

/-- One frame tick of partition p. -/
def State.frameTick (s : State) (p : Nat) : State :=
  let s := s.modPart p fun q => { q with frameCount := q.frameCount + 1, frameTime := s.now }
  let q := s.part p
  let m := q.frameMirror.toNat
  if m = 0 then s
  else if (s.firstBad p true m 4).isSome then
    s.logEntry { cause := 0x03, cls := 2, part := some p, a := BitVec.ofNat 64 (0x110 + 0x20 * p), b := BitVec.ofNat 64 m }
  else (s.writeBytes { part := some p } m (leBytes 4 q.frameCount.toNat)).2

def frameTickBody : OpBody := {
  sel := selOp 0x05
  dec := fun s p => { offs := off (s.tickPin p.part) 0 0 ++ mustZero p 2 31 0 ++ rsvAll p 3 16 [] }
  body := fun s p =>
    let s := s.frameTick p.part
    s.endPkt p.id .ok (s.part p.part).frameCount.toNat (s.part p.part).frameTime.toNat }
def execFrameTick (h : Nat) (s : State) : Host.Outcome State Fault Refusal := s.onHopper h frameTickBody

/-! ### SLEEP_HINT (R171, 12 R332, R334) -/

/-- Halves in which a partition holds an engine. -/
def State.partHalves (s : State) (p : Nat) : List Nat := [0, 1].filter fun h => (s.partEngines p).any fun e => halfOf e = h

/-- A partition has work: a packet not replied, or a segment on an engine. -/
def State.partBusy (s : State) (p : Nat) (but : Nat) : Bool :=
  (s.pkts.any fun q => q.part = p && q.id != but && q.stage != .ended) ||
  (s.partEngines p).any fun e => (s.eng e).run.isSome || (s.eng e).susp.isSome

/-- Refusal reasons of DOZE and of DEEP (R171 bits). -/
def State.dozeReasons (s : State) (p : Pkt) : Nat :=
  4 * b2n ((List.range 8).any fun q => q != p.part && s.partBusy q p.id &&
    (s.partHalves q).any fun h => (s.partHalves p.part).contains h)
def State.deepReasons (s : State) (p : Pkt) : Nat :=
  let idle := (List.range 256).all fun h => h = p.hop || (s.idle h && (s.hop h).pending = 0)
  let moving := s.train.ckpt.isSome || s.train.restore.isSome || s.replay.armed.isSome
  b2n (s.hops.any fun k => k.en && k.cls = 0) + 2 * b2n (s.ctxs != []) +
    4 * b2n (s.dozeReasons p != 0 || !idle || moving) + 8 * b2n s.herd.formed

def State.sleepHint (s : State) (p : Pkt) : State :=
  let target := p.w 2 % 4
  let dz := s.dozeReasons p
  let dp := s.deepReasons p
  let (grant, why) : Nat × Nat :=
    if s.partEngines p.part = [] then (0, 0)
    else if target = 2 && dp = 0 then (3, 0)
    else if target ≥ 1 && dz = 0 then (2, if target = 2 then dp else 0)
    else (1, if target = 2 then dp else if target = 1 then dz else 0)
  let s := s.modPart p.part fun q => { q with hint := some (grant, p.w 3) }
  let s : State :=
    if grant = 3 then
      { s with pwr := { s.pwr with deepGrant := true, hintDuration := BitVec.ofNat 32 (p.w 3), westDoze := true, eastDoze := true },
               engines := s.engines.map fun g => { g with power := .doze } }
    else s
  s.endPkt p.id .ok grant why

def sleepBody : OpBody := {
  sel := selOp 0x08
  dec := fun _ p => { offs := sleepOffs p, denied := p.w 2 % 4 = 2 && p.func != 0 }
  body := fun s p => s.sleepHint p }
def execSleepHint (h : Nat) (s : State) : Host.Outcome State Fault Refusal := s.onHopper h sleepBody

/-! ### Engine opcodes (R185, R186) -/

def fencedMask (s : State) : Nat := ((List.range 8).filter fun e => (s.eng e).fenced).foldl (fun n e => n + 2 ^ e) 0

/-- ENGINE_FENCE: once no named engine runs a segment, they are fenced; contexts lost are counted. A dozing half wakes for it. -/
def State.engineFence (s : State) (p : Pkt) : State :=
  let es := (List.range 8).filter fun e => bit (p.w 2) e
  let s := s.wakeFor (p.w 2 % 256)
  if es.any fun e => (s.eng e).run.isSome || (s.eng e).susp.isSome then
    (es.foldl (fun s e => s.modEng e fun g => { g with stopping := true }) s).modPkt p.id fun q => { q with wait := .engines }
  else
    let n := (s.ctxs.filter fun c => c.lost).length
    let s := es.foldl (fun s e => s.fenceEngine e 2) s
    let m := (s.ctxs.filter fun c => c.lost).length
    s.endPkt p.id .ok (fencedMask s) (m - n)

def engineFenceBody : OpBody := {
  sel := selOp 0x68
  dec := fun _ p => { offs := enginesOffs p }
  body := fun s p => s.engineFence p
  resume := fun s p => s.engineFence p }
def execEngineFence (h : Nat) (s : State) : Host.Outcome State Fault Refusal := s.onHopper h engineFenceBody

/-- ENGINE_UNFENCE: the named engines whose self-test passes return; `failing` marks those whose self-test fails. -/
def State.engineUnfence (s : State) (failing : BitVec 8) (p : Pkt) : State :=
  let named := p.w 2 % 256
  let bad := named &&& failing.toNat
  let good := named &&& (0xFF ^^^ bad)
  let s := s.wakeFor named
  let s := (List.range 8).foldl (fun s e =>
    if bit good e then (if (s.eng e).fenced then s.returnEngine e else s)
    else if bit bad e then (s.fenceEngine e 1).modEng e fun g => { g with passed := false }
    else s) s
  s.endPkt p.id .ok good bad

def engineUnfenceBody (failing : BitVec 8) : OpBody := {
  sel := selOp 0x69
  dec := fun _ p => { offs := enginesOffs p }
  body := fun s p => s.engineUnfence failing p }
def execEngineUnfence (h : Nat) (failing : BitVec 8) (s : State) : Host.Outcome State Fault Refusal :=
  s.onHopper h (engineUnfenceBody failing)

/-- FALLOW_EXIT (R186, 12 R350): its reply is due; PACKET_COMPLETE writes it and restarts the device. -/
def fallowExitBody : OpBody := {
  sel := selOp 0x71
  dec := fun _ p => { offs := fallowExitOffs p }
  body := fun s p => s.endPkt p.id .ok (s.aon.reason + 256 * s.aon.attempts) 0 }
def execFallowExit (h : Nat) (s : State) : Host.Outcome State Fault Refusal := s.onHopper h fallowExitBody

/-- The bytes of a bank, working or Tailrace: zeros while it has held no tile since it was last zeroed; otherwise they stand
until a later tile overwrites them and their layout is not given (R367, log 8). -/
def State.bankBytes (s : State) (e c : Nat) (tail : Bool) : List (BitVec 8) :=
  let b := (s.eng e).bank c
  match (if tail then b.tMark else b.wMark) with
  | some n => (List.range 8192).map fun i => Config.openByte n (80000 + i)
  | none => List.replicate 8192 0

def accReadBody : OpBody := {
  sel := selOp 0x78
  dec := fun _ p => { offs := accReadOffs p, extents := [(p.a40 4, 8192)], reach := [(flat (p.a40 4) 8192, true)] }
  body := fun s p =>
    let b := s.bankBytes (field (p.w 2) 2 0) (field (p.w 2) 9 3) (bit (p.w 2) 10)
    match s.writeBytes { part := some p.part, pkt := some p.id } (p.a40 4) b with
    | (some a, s) => s.endPkt p.id .eccUncorr a 0
    | (none, s) => s.endPkt p.id .ok 8192 0 }
def execDebugAccRead (h : Nat) (s : State) : Host.Outcome State Fault Refusal := s.onHopper h accReadBody

end Sys2Proof.Machine
end

