-- ==== Sys2Proof/Machine/Auth.lean ====
section
/-!
DEFINITION. SHA-384 (FIPS 180-4) and the verification of ECDSA P-384 signatures (FIPS 186-5), which 12 R342 and 13 R364 name.
Words, field elements and scalars are natural numbers below 2^64 or 2^384.
-/
namespace Sys2Proof.Machine

/-! ### SHA-384 -/

/-- Round constants: the fractions of the cube roots of the first 80 primes. -/
def shaK : List Nat :=
  [
    0x428a2f98d728ae22, 0x7137449123ef65cd, 0xb5c0fbcfec4d3b2f, 0xe9b5dba58189dbbc,
    0x3956c25bf348b538, 0x59f111f1b605d019, 0x923f82a4af194f9b, 0xab1c5ed5da6d8118,
    0xd807aa98a3030242, 0x12835b0145706fbe, 0x243185be4ee4b28c, 0x550c7dc3d5ffb4e2,
    0x72be5d74f27b896f, 0x80deb1fe3b1696b1, 0x9bdc06a725c71235, 0xc19bf174cf692694,
    0xe49b69c19ef14ad2, 0xefbe4786384f25e3, 0xfc19dc68b8cd5b5, 0x240ca1cc77ac9c65
  ] ++
  [
    0x2de92c6f592b0275, 0x4a7484aa6ea6e483, 0x5cb0a9dcbd41fbd4, 0x76f988da831153b5,
    0x983e5152ee66dfab, 0xa831c66d2db43210, 0xb00327c898fb213f, 0xbf597fc7beef0ee4,
    0xc6e00bf33da88fc2, 0xd5a79147930aa725, 0x6ca6351e003826f, 0x142929670a0e6e70,
    0x27b70a8546d22ffc, 0x2e1b21385c26c926, 0x4d2c6dfc5ac42aed, 0x53380d139d95b3df,
    0x650a73548baf63de, 0x766a0abb3c77b2a8, 0x81c2c92e47edaee6, 0x92722c851482353b
  ] ++
  [
    0xa2bfe8a14cf10364, 0xa81a664bbc423001, 0xc24b8b70d0f89791, 0xc76c51a30654be30,
    0xd192e819d6ef5218, 0xd69906245565a910, 0xf40e35855771202a, 0x106aa07032bbd1b8,
    0x19a4c116b8d2d0c8, 0x1e376c085141ab53, 0x2748774cdf8eeb99, 0x34b0bcb5e19b48a8,
    0x391c0cb3c5c95a63, 0x4ed8aa4ae3418acb, 0x5b9cca4f7763e373, 0x682e6ff3d6b2b8a3,
    0x748f82ee5defb2fc, 0x78a5636f43172f60, 0x84c87814a1f0ab72, 0x8cc702081a6439ec
  ] ++
  [
    0x90befffa23631e28, 0xa4506cebde82bde9, 0xbef9a3f7b2c67915, 0xc67178f2e372532b,
    0xca273eceea26619c, 0xd186b8c721c0c207, 0xeada7dd6cde0eb1e, 0xf57d4f7fee6ed178,
    0x6f067aa72176fba, 0xa637dc5a2c898a6, 0x113f9804bef90dae, 0x1b710b35131c471b,
    0x28db77f523047d84, 0x32caab7b40c72493, 0x3c9ebe0a15c9bebc, 0x431d67c49c100d4c,
    0x4cc5d4becb3e42b6, 0x597f299cfc657e2a, 0x5fcb6fab3ad6faec, 0x6c44198c4a475817
  ]

/-- The eight working words. -/
structure Sha where
  a : Nat
  b : Nat
  c : Nat
  d : Nat
  e : Nat
  f : Nat
  g : Nat
  h : Nat

def shaInit : Sha :=
  { a := 0xcbbb9d5dc1059ed8, b := 0x629a292a367cd507,
    c := 0x9159015a3070dd17, d := 0x152fecd8f70e5939,
    e := 0x67332667ffc00b31, f := 0x8eb44a8768581511,
    g := 0xdb0c2e0d64f98fa7, h := 0x47b5481dbefa4fa4 }

def add64 (x y : Nat) : Nat := (x + y) % 2 ^ 64
def rotr64 (x k : Nat) : Nat := (x >>> k) ||| (x <<< (64 - k)) % 2 ^ 64
def not64 (x : Nat) : Nat := x ^^^ (2 ^ 64 - 1)

/-- One round with constant plus message word. -/
def Sha.round (s : Sha) (kw : Nat) : Sha :=
  let t1 := s.h + (rotr64 s.e 14 ^^^ rotr64 s.e 18 ^^^ rotr64 s.e 41) + ((s.e &&& s.f) ^^^ (not64 s.e &&& s.g)) + kw
  let t2 := (rotr64 s.a 28 ^^^ rotr64 s.a 34 ^^^ rotr64 s.a 39) + ((s.a &&& s.b) ^^^ (s.a &&& s.c) ^^^ (s.b &&& s.c))
  { a := add64 t1 t2, b := s.a, c := s.b, d := s.c, e := add64 s.d t1, f := s.e, g := s.f, h := s.g }

/-- The word 16 places after the first of a window of 16. -/
def shaNext (w : List Nat) : Nat :=
  let x := w.getD 1 0
  let y := w.getD 14 0
  add64 (w.getD 0 0 + (rotr64 x 1 ^^^ rotr64 x 8 ^^^ x >>> 7) + w.getD 9 0) (rotr64 y 19 ^^^ rotr64 y 61 ^^^ y >>> 6)

/-- The rounds over the constants left; `w` is the window of the message schedule. -/
def shaRounds : List Nat → List Nat → Sha → Sha
  | [], _, s => s
  | k :: ks, w, s => shaRounds ks (w.drop 1 ++ [shaNext w]) (s.round (k + w.headD 0))

def Sha.plus (s t : Sha) : Sha :=
  { a := add64 s.a t.a, b := add64 s.b t.b, c := add64 s.c t.c, d := add64 s.d t.d,
    e := add64 s.e t.e, f := add64 s.f t.f, g := add64 s.g t.g, h := add64 s.h t.h }

/-- Big-endian value of bytes. -/
def beNat (b : List (BitVec 8)) : Nat := b.foldl (fun n x => n * 256 + x.toNat) 0

/-- Blocks of 16 words of 8 bytes. -/
def shaBlocks : Nat → List (BitVec 8) → Sha → Sha
  | 0, _, s => s
  | n + 1, b, s =>
    shaBlocks n (b.drop 128) (s.plus (shaRounds shaK ((List.range 16).map fun i => beNat ((b.drop (8 * i)).take 8)) s))

def Sha.value384 (s : Sha) : Nat := [s.a, s.b, s.c, s.d, s.e, s.f].foldl (fun n x => n * 2 ^ 64 + x) 0

/-- SHA-384 of bytes, as the big-endian number of its 48 bytes. -/
def sha384 (b : List (BitVec 8)) : Nat :=
  let zeros := (128 - (b.length + 17) % 128) % 128
  let len := (List.range 16).map fun i => BitVec.ofNat 8 ((8 * b.length) >>> (8 * (15 - i)))
  let m := b ++ [0x80] ++ List.replicate zeros 0 ++ len
  (shaBlocks (m.length / 128) m shaInit).value384

/-! ### The curve P-384 -/

def p384 : Nat := 2 ^ 384 - 2 ^ 128 - 2 ^ 96 + 2 ^ 32 - 1
def n384 : Nat :=
  0xffffffffffffffffffffffffffffffffffffffffffffffffc7634d81f4372ddf581a0db248b0a77aecec196accc52973
def b384 : Nat :=
  0xb3312fa7e23ee7e4988e056be3f82d19181d9c6efe8141120314088f5013875ac656398d8a2ed19d2a85c8edd3ec2aef

def mulP (x y : Nat) : Nat := x * y % p384
def addP (x y : Nat) : Nat := (x + y) % p384
def subP (x y : Nat) : Nat := (x + (p384 - y)) % p384

/-- A point in Jacobian coordinates; z is 0 at infinity. -/
structure Pt where
  x : Nat
  y : Nat
  z : Nat

def Pt.base : Pt :=
  { x := 0xaa87ca22be8b05378eb1c71ef320ad746e1d3b628ba79b9859f741e082542a385502f25dbf55296c3a545e3872760ab7,
    y := 0x3617de4a96262c6f5d9e98bf9292dc29f8f41dbd289a147ce9da3113b5f0b8c00a60b1ce1d7e819d7a431d7c90ea0e5f, z := 1 }

def Pt.double (q : Pt) : Pt :=
  let d := mulP q.z q.z
  let g := mulP q.y q.y
  let b := mulP q.x g
  let a := 3 * mulP (subP q.x d) (addP q.x d) % p384
  let x := subP (mulP a a) (8 * b % p384)
  let yz := addP q.y q.z
  { x := x, y := subP (mulP a (subP (4 * b % p384) x)) (8 * mulP g g % p384), z := subP (subP (mulP yz yz) g) d }

def Pt.add (q r : Pt) : Pt :=
  if q.z = 0 then r
  else if r.z = 0 then q
  else
    let zq := mulP q.z q.z
    let zr := mulP r.z r.z
    let u := mulP q.x zr
    let s := mulP q.y (mulP zr r.z)
    let h := subP (mulP r.x zq) u
    let k := subP (mulP r.y (mulP zq q.z)) s
    if h = 0 then (if k = 0 then q.double else { x := 1, y := 1, z := 0 })
    else
      let h2 := mulP h h
      let h3 := mulP h h2
      let v := mulP u h2
      let x := subP (subP (mulP k k) h3) (2 * v % p384)
      { x := x, y := subP (mulP k (subP v x)) (mulP s h3), z := mulP h (mulP q.z r.z) }

/-- The multiple i of P plus the multiple j of Q, over the lowest bits of i and j. -/
def twoMul (p q pq : Pt) (i j : Nat) : Nat → Pt → Pt
  | 0, t => t
  | n + 1, t =>
    let d := t.double
    twoMul p q pq i j n
      (match i.testBit n, j.testBit n with
       | true, true => d.add pq
       | true, false => d.add p
       | false, true => d.add q
       | false, false => d)

/-- x^e modulo the group order, over the lowest bits of e. -/
def powN (x e : Nat) : Nat → Nat → Nat
  | 0, t => t
  | n + 1, t => powN x e n (if e.testBit n then t * t % n384 * x % n384 else t * t % n384)

/-- The signature (r, s) over the digest z verifies with the public key (x, y). -/
def ecdsaVerify (x y z r s : Nat) : Bool :=
  let q : Pt := { x := x, y := y, z := 1 }
  let w := powN s (n384 - 2) 384 1
  let t := twoMul .base q (Pt.base.add q) (z * w % n384) (r * w % n384) 384 { x := 1, y := 1, z := 0 }
  let zz := mulP t.z t.z
  x < p384 && y < p384 && mulP y y = addP (subP (mulP x (mulP x x)) (3 * x % p384)) b384 &&
  0 < r && r < n384 && 0 < s && s < n384 && t.z != 0 &&
  (mulP r zz = t.x || (r + n384 < p384 && mulP (r + n384) zz = t.x))

/-- A signature of 96 bytes (r, s) over bytes verifies with a public key of 96 bytes (x, y), big-endian as FIPS 186 encodes
them. -/
def signed (key sig msg : List (BitVec 8)) : Bool :=
  ecdsaVerify (beNat (key.take 48)) (beNat (key.drop 48)) (sha384 msg) (beNat (sig.take 48)) (beNat (sig.drop 48))

end Sys2Proof.Machine
end

