-- ==== Sys2Proof/Machine/Start.lean ====
section
/-!
DEFINITION. Starts, failed starts, Fallow, FATAL errors, the reset events and the end of a packet (03 R63; 12 R340 to R350,
R336, R337; 13 R359, R370; 14 Table REG-2). A start is one step: its outcome comes with the command (log 75).
-/
namespace Sys2Proof.Machine

def State.failOut (s : State) : State := { s with pins := { s.pins with failOut := true } }

/-- Thermal design power of the grade, in W (00 Table SCO-1). -/
def Glb.tdp (g : Glb) : Nat := if g.grade14 then 400 else 330

/-! ### What outlives a cold start (14 Table REG-2, 12 Table PWR-1) -/

/-- The device with everything at reset but the AON island, fuses, flash, pins, sensors and HBM bytes. While PROCHOT_N is
asserted the engine clocks stand at 4/16 (12 R338). -/
def State.coldReset (s : State) : State :=
  { State.reset with
    pending := s.pending
    glb := { grade14 := s.glb.grade14 }
    mem := { hbm := s.mem.hbm, poison := s.mem.poison }
    host := s.host
    sec := { fuses := s.sec.fuses, inForce := s.sec.inForce }
    aon := { s.aon with within10s := false, perstPending := false, xtalFail := false }
    image := s.image
    pwr := { twinAbsent := false, limit := s.glb.tdp, tempMax := s.pwr.tempMax, power := s.pwr.power, trip := s.pwr.trip,
             vid := s.pwr.vid, supplyFault := s.pwr.supplyFault, sixteenths := if s.pins.prochot then 4 else 16 }
    flash := { cells := s.flash.cells }
    pins := s.pins
    tap := s.tap
    verdictLost := s.pins.failIn
    out := s.out
    free := s.free }

/-- An engine after its start-up self-test (01 R18). -/
def startEngine (bad : BitVec 8) (e : Nat) : Engine :=
  if bad.getLsbD e then { fenced := true, passed := false, cause := 1 } else {}

/-! ### Fallow mode (R349) -/

/-- Engines whose latest self-test failed. -/
def State.badEngines (s : State) : BitVec 8 :=
  BitVec.ofNat 8 (((List.range 8).filter fun e => !(s.eng e).passed).foldl (fun n e => n + 2 ^ e) 0)

/-- Fallow mode with the engines that `bad` does not name. -/
def State.enterFallow (s : State) (bad : BitVec 8) : State :=
  let s := s.coldReset.failOut.alert 2
  let live := (List.range 8).find? fun e => !bad.getLsbD e
  let mask : BitVec 8 := match live with | some e => BitVec.ofNat 8 (2 ^ e) | none => 0
  let parts : List Part := { mapped := true, mask := mask } :: List.replicate 7 {}
  ({ s with mode := .fallow, parts := parts, engines := (List.range 8).map fun e => startEngine bad e,
            ports := List.replicate 4 { state := 0 }, fallow := [] } : State).gateEngines

/-! ### Failed starts (R347, R348) -/

/-- A start fails: one more attempt, then the reset hold or Fallow. -/
def State.failedStart (s : State) (reason detail : Nat) (bad : BitVec 8) : State :=
  let n := min (s.aon.attempts + 1) 255
  let s := ({ s with aon := { s.aon with attempts := n, reason := reason, detail := BitVec.ofNat 32 detail } }).alert 5
  if n ≥ 3 then s.enterFallow bad
  else { s.coldReset.failOut with mode := .hold, ports := List.replicate 4 { state := 0 } }

/-- PLL i has not locked: it stays off. -/
def State.withoutPll (s : State) (i : Nat) : State :=
  { s with pwr := { s.pwr with plls := s.pwr.plls &&& ~~~ BitVec.ofNat 9 (2 ^ i) } }

/-! ### Authentication (R341, R342) -/

/-- n bytes of the flash from address a. -/
def State.flashRead (s : State) (a n : Nat) : List (BitVec 8) := readCells 0xFF s.flash.cells a n
def State.flashBytes (s : State) (a n : Nat) : Nat := ofBytes (s.flashRead a n)

def slotBaseOf (slotB : Bool) : Nat := if slotB then 0x400000 else 0

/-- IMAGE_SIZE of a slot, and whether it is legal (Table PWR-8A). -/
def State.imageSize (s : State) (slotB : Bool) : Nat := s.flashBytes (slotBaseOf slotB + 0x10) 4
def sizeLegal (n : Nat) : Bool := 4096 ≤ n && n ≤ 131072 && n % 64 = 0

/-- SHA-384 of a slot's image. -/
def State.imageHash (s : State) (slotB : Bool) : Nat := sha384 (s.flashRead (slotBaseOf slotB + 0x1000) (s.imageSize slotB))

/-- First condition of R342 that a slot fails; 0 when it passes. -/
def State.slotFails (s : State) (slotB : Bool) : Nat :=
  let b := slotBaseOf slotB
  let key := s.flashBytes (b + 6) 1
  let pub := s.flashRead (b + 0x40) 96
  if s.flashRead b 4 != [0x57, 0x4E, 0x46, 0x57] || s.flashBytes (b + 4) 2 != 1 || !sizeLegal (s.imageSize slotB) then 1
  else if key > 3 || sha384 pub != (s.sec.inForce.keyHash.getD key 0).toNat || s.sec.inForce.revoke.getLsbD key then 2
  else if !signed pub (s.flashRead (b + 0x100) 96) (s.flashRead b 0x100) then 3
  else if s.imageHash slotB != beNat (s.flashRead (b + 0xA0) 48) then 4
  else if s.flashBytes (b + 0xC) 4 < s.sec.inForce.rollback then 5
  else 0

def State.loadImage (s : State) (slotB : Bool) : State :=
  let b := slotBaseOf slotB
  { s with
    image := { s.image with slotB := slotB, fw := BitVec.ofNat 32 (s.flashBytes (b + 8) 4), keyIndex := s.flashBytes (b + 6) 1,
                            rollback := s.flashBytes (b + 0xC) 4, digest := beNat (s.flashRead (b + 0xA0) 48) }
    aon := { s.aon with bootSlot := slotB } }

/-- Step 4: the slot that passes in BOOT_SEL order, or the detail of FW_AUTH. -/
def State.chooseSlot (s : State) (sel : Nat) : Bool ⊕ Nat :=
  let a := s.slotFails false
  let b := s.slotFails true
  if sel = 1 then (if b = 0 then .inl true else if a = 0 then .inl false else .inr (a + 16 * b))
  else if a = 0 then .inl false
  else if sel = 0 && b = 0 then .inl true
  else .inr (if sel = 2 then a else a + 16 * b)

/-! ### The twin at a start (R345, 10 R280) -/

/-- Firmware and tree version of the far LINK_ID against this device's: the bits of TWIN_DISAGREE. -/
def State.linkBits (s : State) (info : LinkInfo) : Nat := b2n (info.fw != s.image.fw) + 2 * b2n (info.tree != s.image.tree)

/-- What the twin check finds: port 0 UP and agreeing, with a heartbeat edge. -/
def State.twinPasses (s : State) (t : TwinSeen) : Bool :=
  match t with
  | .absent => false
  | .up info edge => s.linkBits info = 0 && edge

/-- The bits in which a twin on port 0 disagrees; 0 where none is there. -/
def State.twinDiffers (s : State) (t : TwinSeen) : Nat :=
  match t with
  | .absent => 0
  | .up info _ => s.linkBits info

/-- Ports 1 to 3 train; port 0 is UP where the start finds it so, and LINK_IDs are exchanged. -/
def State.meetTwin (s : State) (t : TwinSeen) : State :=
  match t with
  | .absent => { s with ports := List.replicate 4 {} }
  | .up info edge =>
    ({ s with
      ports := { state := 2, far := some info, farPort := info.port } :: List.replicate 3 {}
      pins := { s.pins with hbIn := s.pins.hbIn || edge } } : State).sendLinkId 0

/-! ### Cold start (R343 to R345) -/

/-- READY (R344): step 9 after every check has passed. -/
def State.becomeReady (s : State) (env : StartEnv) : State :=
  let passes := s.twinPasses env.twin
  let parts : List Part := { mapped := true, mask := ~~~env.badEngines } :: List.replicate 7 {}
  ({ s with
    mode := .ready
    parts := parts
    engines := (List.range 8).map fun e => startEngine env.badEngines e
    pwr := { s.pwr with twinAbsent := !passes, hbArmed := passes }
    pins := { s.pins with failOut := false }
    aon := { s.aon with within10s := true } } : State).gateEngines

/-- The thermal check of step 8 fails at 105 °C or more (readings are in 1/8 °C). -/
def State.tooHot (s : State) : Bool := s.pwr.tempMax ≥ 840

/-- FALLOW_DETAIL of THERMAL: the hottest reading in °C. -/
def State.hotDetail (s : State) : Nat := (s.pwr.tempMax / 8).toNat

/-- Step 6: fresh training values are kept (R328, log 112); every byte of HBM is zero. -/
def State.trained (s : State) : State := { s.draw with aon := { s.aon with training := some s.free }, mem := {} }

/-- The steps of Table PWR-8, each in its turn. -/
def State.coldStart (s : State) (env : StartEnv) : State :=
  let s := s.coldReset.failOut
  let s : State := { s with aon := { s.aon with bootSel := env.bootSel % 4, alert := 0 },
                            sec := { s.sec with inForce := s.sec.fuses } }
  if env.bootSel % 4 = 3 then
    ({ s with aon := { s.aon with reason := 0, detail := 0 } }).enterFallow env.badEngines
  else
    match env.fuseBad with
    | some row => s.failedStart 8 row env.badEngines
    | none =>
      let s : State := { s with pwr := { s.pwr with vid := Config.vidFused.val } }     -- step 2 (15 R409)
      match env.pllBad with
      | some i => (s.failedStart 1 (i % 9) env.badEngines).withoutPll (i % 9)
      | none =>
        match s.chooseSlot (env.bootSel % 4) with
        | .inr d => s.failedStart 4 d env.badEngines
        | .inl slot =>
          let s := s.loadImage slot
          match env.bistBad, env.hbmBad with
          | some d, _ => s.failedStart 3 d env.badEngines
          | none, some d => s.failedStart 2 d env.badEngines
          | none, none =>
            let s := s.trained
            match env.crash with
            | some c => s.failedStart 5 c env.badEngines
            | none =>
              let s := s.meetTwin env.twin
              if s.tooHot then s.failedStart 6 s.hotDetail env.badEngines
              else if s.twinDiffers env.twin != 0 then s.failedStart 7 (s.twinDiffers env.twin) env.badEngines
              else s.becomeReady env

/-! ### DEEP (R335 to R337) -/

/-- What Table PWR-1 keeps of a partition: configuration, windows' and cache settings, counts, seed. -/
def Part.retained (q : Part) : Part :=
  { mapped := q.mapped, mask := q.mask, func := q.func, spread := q.spread, tickPin := q.tickPin, demoteEn := q.demoteEn,
    epochCount := q.epochCount, frameCount := q.frameCount, frameMirror := q.frameMirror, seed := q.seed, limit := q.limit,
    roBase := q.roBase, roSize := q.roSize, ovBase := q.ovBase, ovSize := q.ovSize }

/-- The device out of DEEP at step 7 of Table PWR-6. Page state comes from the checkpoint reserve; without a reserve the
region is as newly configured. The lockout lasts until a cold start (13 R365). -/
def State.deepRestore (s : State) (env : StartEnv) : State :=
  let kept := s.regions.ckptBase.isSome
  let passes := s.twinPasses env.twin
  let differs := s.twinDiffers env.twin != 0
  let t := s.coldReset
  (({ t with
    mode := .ready
    parts := s.parts.map Part.retained
    mem := { hbm := s.mem.hbm, poison := s.mem.poison, owner := s.mem.owner }
    wins := s.wins.map fun w => { w with short := 0 }
    regions := { s.regions with pages := if kept then s.regions.pages else [] }
    train := if kept then { committed := s.train.committed, undoOk := s.train.undoOk, undecided := s.train.undecided,
                            held := s.train.held, log := s.train.log, mirror := s.train.mirror } else {}
    sec := { t.sec with slots := s.sec.slots, regions := s.sec.regions, lockedOut := s.sec.lockedOut,
                        dbgFails := s.sec.dbgFails }
    pwr := { t.pwr with twinAbsent := !passes && !differs, twinDisagree := differs, hbArmed := passes }
    pins := { t.pins with failOut := false } } : State).meetTwin env.twin).gateEngines.refreshTwinCkpt

/-- Step 4 of Table PWR-6: the retained slot's image no longer has the retained digest. -/
def State.digestDiffers (s : State) : Bool :=
  !sizeLegal (s.imageSize s.aon.bootSlot) || s.imageHash s.aon.bootSlot != s.image.digest

/-- Authentication in full of the retained slot, as FALLOW_DETAIL has it; none when it passes. -/
def State.slotDetail (s : State) : Option Nat :=
  match s.slotFails s.aon.bootSlot with
  | 0 => none
  | n => some (if s.aon.bootSlot then 16 * n else n)

/-- Step 5 restores the stacks from the retained training values; without them no stack restores (log 112). -/
def State.restoreBad (s : State) (env : StartEnv) : Option Nat := if s.aon.training = none then some 0xF else env.hbmBad

/-- DEEP exit (R337): PCIE_WAKE_N is released; a digest that differs is authenticated in full; a failed one, or HBM that does
not restore, is a failed start. -/
def State.deepExit (s : State) (env : StartEnv) : State :=
  let s : State := { s with aon := { s.aon with bootSel := env.bootSel % 4, alert := 0 }, pins := { s.pins with wakeN := true } }
  match env.fuseBad, env.pllBad, (if s.digestDiffers then s.slotDetail else none), s.restoreBad env with
  | some row, _, _, _ => s.failedStart 8 row env.badEngines
  | none, some i, _, _ => (s.failedStart 1 (i % 9) env.badEngines).withoutPll (i % 9)
  | none, none, some d, _ => s.failedStart 4 d env.badEngines
  | none, none, none, some d => s.failedStart 2 d env.badEngines
  | none, none, none, none => (if s.digestDiffers then s.loadImage s.aon.bootSlot else s).deepRestore env

/-! ### FATAL errors (R370, 12 R347) -/

/-- What a packet that ends from outside leaves: the units and messages it held are free. -/
def State.letGo (s : State) (id : Nat) : State :=
  let s := match s.pkt id with
    | some p => if p.op = 0x50 then { s with train := { s.train with busy := List.replicate 4 false } } else s
    | none => s
  let s := match s.train.ckpt with | some c => if c.pkt = id then s.dropCkpt else s | none => s
  let s : State := { s with
    train := { s.train with restore := s.train.restore.filter fun r => r.pkt != id
                            commit := s.train.commit.map fun c => if c.pkt = some id then { c with pkt := none } else c }
    herd := { s.herd with colls := s.herd.colls.filter fun c => c.pkt != id
                          closes := s.herd.closes.filter fun c => c.pkt != id } }
  match s.herd.forming with
  | some f => if f.pkt = id then { s.setForming none with herd := { s.herd with forming := none, offers := [] } } else s
  | none => s

/-- A packet ends from outside (a FATAL error, a Function Level Reset, the debug erase): with INTERNAL, whatever it was doing. -/
def State.abort (s : State) (id : Nat) : State :=
  match s.pkt id with
  | some p => if p.stage = .ended then s else (s.letGo id).endPkt id .internal 0 0
  | none => s

/-- Every packet in flight ends with INTERNAL. -/
def State.endAll (s : State) : State := (s.pkts.map (·.id)).foldl State.abort s

/-- Every reply due is written. -/
def State.replyAll (s : State) : State :=
  (s.pkts.map (·.id)).foldl (fun s i => match s.pkt i with | some p => s.reply p | none => s) s

/-- A FATAL error: the device halts until PERST_N cycles; within 10 s of READY it is a failed start. Only WATCHDOG and
MILLER_STATE produce replies (Table SEC-9). -/
def State.fatal (s : State) (e : ErrEntry) : State :=
  let s := (s.logEntry { e with cls := 5 }).endAll
  let s := (if e.cause = 0x29 || e.cause = 0x2A then s.replyAll else s).haltAll.failOut
  if s.mode = .ready && s.aon.within10s then s.failedStart 5 e.cause s.badEngines
  else { s with mode := .halted }

/-! ### PERST_N and the reset hold (R346, R339) -/

/-- PERST_N asserted: DEEP when PME_Turn_Off has come under a standing grant, else reset. -/
def perstAssert (s : State) : State :=
  match s.mode with
  | .off => s
  | .aonWait => { s with aon := { s.aon with perstPending := false } }
  | .inReset | .deep => s
  | _ =>
    if s.pwr.pme then { s.failOut with mode := .deep }
    else
      let t := s.coldReset.failOut
      { t with mode := .inReset, pwr := { t.pwr with trip := t.pwr.trip && t.pwr.tempMax > 800 },
               ports := List.replicate 4 { state := 0 } }

def perstDeassert (env : StartEnv) (s : State) : State :=
  match s.mode with
  | .aonWait => { s with aon := { s.aon with perstPending := true } }
  | .inReset =>
    if s.pwr.trip || (s.pwr.supplyFault && !env.supplies) then { s with mode := .dead }
    else ({ s with pins := { s.pins with wakeN := true }, pwr := { s.pwr with supplyFault := false } }).coldStart env
  | .deep => s.deepExit env
  | _ => s

def execPerstNAssert (s : State) : Host.Outcome State Fault Refusal := noted true (perstAssert s)
def execPerstNDeassert (env : StartEnv) (s : State) : Host.Outcome State Fault Refusal := noted true (perstDeassert env s)

/-- RESET_HOLD_EXPIRY (R347). -/
def execResetHoldExpiry (env : StartEnv) (s : State) : Host.Outcome State Fault Refusal :=
  noted true (if s.mode = .hold then s.coldStart env else s)

/-- BOOT_ATTEMPTS_CLEAR: 10 s of continuous READY (R347). -/
def bootAttemptsClear (s : State) : State :=
  if s.mode = .ready && s.aon.within10s then { s with aon := { s.aon with attempts := 0, within10s := false } } else s
def execBootAttemptsClear (s : State) : Host.Outcome State Fault Refusal := bounded true (bootAttemptsClear s)

/-- CAUSE and WORD_A of a stop of Miller. -/
def stopEntry : MillerStop → ErrEntry
  | .watchdog pc => { cause := 0x29, a := pc }
  | .stateCheck code => { cause := 0x2A, a := code }

/-- MILLER_WATCHDOG_EXPIRY, and Miller's check of its own state (R370, 03 R74, Table SEC-9, log 49). -/
def execMillerWatchdogExpiry (why : MillerStop) (s : State) : Host.Outcome State Fault Refusal :=
  noted true (if s.running then s.fatal (stopEntry why) else s)

/-! ### Function Level Reset (R346, 13 R359, 14 Table REG-2) -/

/-- A Key Store slot is erased (13 Table SEC-1). -/
def KeySlot.erased (k : KeySlot) : KeySlot := { k with key1 := 0, key2 := 0, state := if k.state = 0 then 0 else 1 }

/-- Regions of partition p are disabled after their write-back; its key slots are erased. -/
def State.dropKeys (s : State) (p : Nat) : State :=
  let mine (r : Region) : Bool := r.enable && (s.sec.slots.getD r.slot {}).owner = p
  let hit := (List.range 16).filter fun n => mine (s.sec.regions.getD n {})
  let s := hit.foldl (fun s n =>
    let t := (s.sec.regions.getD n {}).leave s
    { t with sec := { t.sec with regions := t.sec.regions.modify n fun r => { r with enable := false } } }) s
  { s with sec := { s.sec with slots := s.sec.slots.map fun k => if k.state != 0 && k.owner = p then k.erased else k } }

/-- Packets of the Hoppers that `sel` names are gone without a reply, and those Hoppers are at reset. -/
def State.resetHops (s : State) (sel : Nat → Bool) : State :=
  let gone := (s.pkts.filter fun p => sel p.hop).map (·.id)
  let s := gone.foldl State.abort s
  { s with pkts := s.pkts.filter fun p => !sel p.hop,
           hops := s.hops.mapIdx fun h k => if sel h then { cls := 2 } else k }

def flrVf (f : Nat) (s : State) : State :=
  if f = 0 || !s.funcUp f then s
  else
    let s := s.resetHops fun h => (s.hop h).func = f
    let s : State := { s with msix := { s.msix with unmasked := s.msix.unmasked.filter fun x => x.1 != f,
                                                    pending := s.msix.pending.filter fun x => x.1 != f } }
    match s.funcPart f with
    | some p =>
      let gone := (s.pkts.filter fun q => q.part = p).map (·.id)
      let s := gone.foldl State.abort s
      (({ s with pkts := s.pkts.filter fun q => q.part != p }).emptyPart p).dropKeys p
    | none => s

def flrPf (s : State) : State :=
  if !s.funcUp 0 then s
  else
    let s := s.resetHops fun _ => true
    let s := (List.range 8).foldl State.emptyPart s
    let s := if s.herd.formed then (s.sendAll 0 (s.herd.entries.map (·.id)) "DISSOLVE" []).dissolve else s
    let s := (List.range 8).foldl State.dropKeys s
    { s with msix := {}, glb := { s.glb with lock := false, bar2Xlat := List.replicate 16 0 } }

def execFlrVf (f : Nat) (s : State) : Host.Outcome State Fault Refusal := noted (f < 16) (flrVf f s)
def execFlrPf (s : State) : Host.Outcome State Fault Refusal := noted true (flrPf s)

/-! ### PACKET_COMPLETE (03 R63, R70) -/

/-- FALLOW_EXIT restarts the device once its reply is written (R186, R350). -/
def State.afterReply (s : State) (p : Pkt) (env : StartEnv) : State :=
  if p.op = 0x71 && p.status.good then
    let s := if bit (p.w 2) 0 then { s with aon := { s.aon with attempts := 0 } } else s
    s.coldStart env
  else s

def packetComplete (h : Nat) (env : StartEnv) (s : State) : State :=
  match s.front h with
  | some p =>
    if s.running && p.stage = .ended && s.writesDone p then ((s.recordPkt p).reply p).afterReply p env else s
  | none => s

def execPacketComplete (h : Nat) (env : StartEnv) (s : State) : Host.Outcome State Fault Refusal :=
  noted (h < 256) (packetComplete h env s)

end Sys2Proof.Machine
end

