-- ==== Sys2Proof/Machine/Sec.lean ====
section
/-!
DEFINITION. Key Store commands, fuses and Debug Open (13 R353, R354, R361 to R367; 14 R393 to R395).
-/
namespace Sys2Proof.Machine

/-- BAR0 offset of the SEC block (14 Table REG-27). -/
def secBase : Nat := 0x260000

def State.modSec (s : State) (f : Sec → Sec) : State := { s with sec := f s.sec }
def State.keyFunc (s : State) (f : Nat) : KeyFunc := s.sec.funcs.getD f {}
def State.modKey (s : State) (f : Nat) (g : KeyFunc → KeyFunc) : State := s.modSec fun x => { x with funcs := x.funcs.modify f g }

/-! ### Key commands (R354, R394) -/

/-- A slot is bound to an enabled region. -/
def State.bound (s : State) (n : Nat) : Bool := s.sec.regions.any fun r => r.enable && r.slot = n

/-- A KEY_CMD write that reaches the block: refused while BUSY, else it waits its turn. The staging registers are taken with it. -/
def State.keyWrite (s : State) (f cmd slot owner word : Nat) : State :=
  if (s.keyFunc f).busy || cmd = 0 || cmd > 5 then s.regIgnored secBase word
  else
    let d := (s.keyFunc f).data.toNat
    let c : KeyCmd := { func := f, cmd := cmd, slot := slot, owner := owner, key1 := BitVec.ofNat 256 d,
                        key2 := BitVec.ofNat 256 (d / 2 ^ 256), dbg := s.mode = .debugOpen }
    (s.modSec fun x => { x with queue := x.queue ++ [c] }).modKey f fun k => { k with busy := true, refused := false }

/-- The function may give the command: the physical function, or for LOAD, GENERATE and ERASE the owner's function. -/
def State.keyIssuer (s : State) (c : KeyCmd) (k : KeySlot) : Bool :=
  c.func = 0 || ((c.cmd = 2 || c.cmd = 3 || c.cmd = 4) && k.state != 0 && s.funcPart c.func = some k.owner)

/-- Condition of Table SEC-1. -/
def State.keyAllowed (s : State) (c : KeyCmd) (k : KeySlot) : Bool :=
  s.keyIssuer c k && !(c.dbg && c.cmd ≤ 3) &&
  (match c.cmd with
   | 1 => k.state = 0
   | 2 | 3 => k.state != 0 && !s.bound c.slot && c.key1 != c.key2
   | _ => !s.bound c.slot)

/-- GENERATE draws its key pair; every other command has its own (Table SEC-1). -/
def KeyCmd.drawn (c : KeyCmd) (n : Nat) : KeyCmd :=
  if c.cmd = 3 then
    let r := (Config.drbg n).toNat
    { c with key1 := BitVec.ofNat 256 r, key2 := BitVec.ofNat 256 (r / 2 ^ 256) }
  else c

/-- KEY_COMMAND_DONE: the oldest command takes effect, or is refused and logged; staging reads 0 from then on. -/
def keyDone (s : State) : State :=
  match s.sec.queue with
  | [] => s
  | c0 :: t =>
    let c := c0.drawn s.free
    let k := s.sec.slots.getD c.slot {}
    let ok := s.keyAllowed c k
    let k' : KeySlot :=
      match c.cmd with
      | 1 => { state := 1, owner := c.owner }
      | 2 | 3 => { k with state := 2, key1 := c.key1, key2 := c.key2 }
      | 4 => { k with state := 1, key1 := 0, key2 := 0 }
      | _ => {}
    let s := (s.draw.modSec fun x => { x with queue := t, slots := if ok then x.slots.set c.slot k' else x.slots }).modKey c.func
      fun k => { k with busy := false, refused := !ok, data := 0 }
    if ok then s else s.log 0x05 0x40 none c.slot c.cmd

def execKeyCommandDone (s : State) : Host.Outcome State Fault Refusal := bounded true (if s.pcieUp then keyDone s else s)

/-- A KEY_CMD write of function f. -/
def keyCommand (f cmd slot owner : Nat) (s : State) : State :=
  if s.funcUp f then s.keyWrite f cmd slot owner (cmd + 256 * slot) else s

def execKeyAssign (f slot owner : Nat) (s : State) : Host.Outcome State Fault Refusal :=
  bounded (f < 16 && slot < 16 && owner < 8) (keyCommand f 1 slot owner s)
def execKeyLoad (f slot : Nat) (s : State) : Host.Outcome State Fault Refusal :=
  bounded (f < 16 && slot < 16) (keyCommand f 2 slot 0 s)
def execKeyGenerate (f slot : Nat) (s : State) : Host.Outcome State Fault Refusal :=
  bounded (f < 16 && slot < 16) (keyCommand f 3 slot 0 s)
def execKeyErase (f slot : Nat) (s : State) : Host.Outcome State Fault Refusal :=
  bounded (f < 16 && slot < 16) (keyCommand f 4 slot 0 s)
def execKeyRelease (f slot : Nat) (s : State) : Host.Outcome State Fault Refusal :=
  bounded (f < 16 && slot < 16) (keyCommand f 5 slot 0 s)

/-! ### Fuses (R361, R362, R394) -/

/-- A FUSE_CMD write of the physical function: one outside the normal started state, while one runs, or refused, is ignored
and logged. -/
def State.fuseWrite (s : State) (word : Nat) : State :=
  let i := field word 5 4
  let op : Option FuseOp :=
    match word % 4 with
    | 1 => if i = s.image.keyIndex || (s.sec.fuses.revoke ||| BitVec.ofNat 4 (2 ^ i)) = 0xF then none else some (.revoke i)
    | 2 => some .rollback
    | 3 => some .disableDebug
    | _ => none
  if s.mode != .ready || s.sec.fuseOp.isSome || op.isNone then s.regIgnored (secBase + 0x200) word
  else s.modSec fun x => { x with fuseOp := op }

/-- A write to a register of scope G by function f (14 R376). -/
def State.pfOnly (s : State) (f off : Nat) (g : State → State) : State :=
  if !s.funcUp f then s else if f = 0 then g s else s.accessDropped off f

def execRevokeKey (f i : Nat) (s : State) : Host.Outcome State Fault Refusal :=
  bounded (f < 16 && i < 4) (s.pfOnly f (secBase + 0x200) fun s => s.fuseWrite (1 + 16 * i))
def execAdvanceRollback (f : Nat) (s : State) : Host.Outcome State Fault Refusal :=
  bounded (f < 16) (s.pfOnly f (secBase + 0x200) fun s => s.fuseWrite 2)
def execDisableDebug (f : Nat) (s : State) : Host.Outcome State Fault Refusal :=
  bounded (f < 16) (s.pfOnly f (secBase + 0x200) fun s => s.fuseWrite 3)

/-- Fuses after an operation that verified. -/
def Fuses.program (x : Fuses) (op : FuseOp) (rollback : Nat) : Fuses :=
  match op with
  | .revoke i => { x with revoke := x.revoke ||| BitVec.ofNat 4 (2 ^ i) }
  | .rollback => { x with rollback := max x.rollback (min 64 rollback) }
  | .disableDebug => { x with debugDisable := true }

/-- Row of Table SEC-2 (from 0) and OP of Table REG-24 of an operation. -/
def FuseOp.codes : FuseOp → Nat × Nat
  | .revoke _ => (1, 1)
  | .rollback => (2, 2)
  | .disableDebug => (4, 3)

/-- FUSE_OP_DONE: the operation is verified by reading back; without FUSE_VPP it fails (15 R410). -/
def fuseDone (vppOk : Bool) (s : State) : State :=
  match s.sec.fuseOp with
  | none => s
  | some op =>
    let s : State := { s.modSec fun x => { x with fuseOp := none } with pins := { s.pins with fuseVpp := vppOk } }
    if s.pins.fuseVpp then s.modSec fun x => { x with fuses := x.fuses.program op s.image.rollback }
    else (s.modSec fun x => { x with fuseFail := true }).log 0x33 0x40 none op.codes.1 op.codes.2

def execFuseOpDone (vppOk : Bool) (s : State) : Host.Outcome State Fault Refusal :=
  bounded true (if s.pcieUp then fuseDone vppOk s else s)

/-! ### Debug Open (R363 to R367, R395) -/

/-- A refused or failed request (When it goes wrong of R367). -/
def State.dbgRefuse (s : State) (tap : Bool) (st : Nat) : State :=
  (s.modSec fun x => { x with dbg := st }).log 0x30 0x40 none (b2n tap) st

/-- A request on either path (R363); one that finds CHALLENGE or a later state changes nothing (15 Edges of R420). A halted
device has no status of its own in Table SEC-4: BUSY (log 46). -/
def State.dbgRequestOn (s : State) (tap : Bool) : State :=
  if !(s.running || s.mode = .halted) || (1 ≤ s.sec.dbg && s.sec.dbg ≤ 4) then s
  else if s.sec.inForce.debugDisable then s.dbgRefuse tap 0xC
  else if s.sec.lockedOut then s.dbgRefuse tap 0xD
  else if s.mode = .halted || s.pwr.deepGrant || (s.hops.any fun k => k.en) || s.pkts != [] then s.dbgRefuse tap 0x8
  else
    (s.modSec fun x => { x with
      dbg := 1, nonce := BitVec.ofNat 256 (Config.drbg s.free).toNat, nonceOk := true, tapPath := tap,
      response := List.replicate 192 0 }).draw

/-- A failure counts; the third in a row locks out (R365). -/
def State.dbgFail (s : State) (st : Nat) : State :=
  let n := s.sec.dbgFails + 1
  (s.modSec fun x => { x with dbgFails := min n 3, lockedOut := x.lockedOut || n ≥ 3 }).dbgRefuse s.sec.tapPath st

/-- The challenge block (Table SEC-3); zeros outside CHALLENGE. -/
def State.challenge (s : State) : List (BitVec 8) :=
  if s.sec.dbg != 1 then List.replicate 64 0
  else
    leBytes 32 s.sec.nonce.toNat ++ leBytes 8 Config.serial.toNat ++ [0xB1, if s.glb.grade14 then 0x0E else 0x0C] ++
    leBytes 2 (b2n s.sec.tapPath) ++ leBytes 4 (if s.mode = .fallow then 0 else s.image.fw.toNat) ++
    leBytes 4 s.sec.inForce.rollback ++ List.replicate 12 0

/-- A response arrives: the nonce is void from then on, the staged bytes are zeroed; a void nonce ends the request. -/
def State.dbgSubmitNow (s : State) : State :=
  let t := s.modSec fun x => { x with nonceOk := false, response := List.replicate 192 0 }
  if s.sec.nonceOk then t.modSec fun x => { x with dbg := 2, checking := (s.sec.response, s.challenge) } else t.dbgFail 0xB

/-- DBG_REQ written by the physical function. -/
def State.dbgReqWrite (s : State) (word : Nat) : State :=
  match word % 4 with
  | 1 => s.dbgRequestOn false
  | 2 => if s.sec.dbg = 1 then s.dbgSubmitNow else s.regIgnored (secBase + 0x300) word
  | 3 => s.regIgnored (secBase + 0x300) word
  | _ => s

def execDbgReqRequest (f : Nat) (s : State) : Host.Outcome State Fault Refusal :=
  noted (f < 16) (s.pfOnly f (secBase + 0x300) fun s => s.dbgReqWrite 1)
def execDbgReqSubmit (f : Nat) (s : State) : Host.Outcome State Fault Refusal :=
  noted (f < 16) (s.pfOnly f (secBase + 0x300) fun s => s.dbgReqWrite 2)

/-- NONCE_EXPIRY: 60 s after issue. -/
def execNonceExpiry (s : State) : Host.Outcome State Fault Refusal :=
  bounded true (if s.sec.dbg = 1 then s.modSec fun x => { x with nonceOk := false } else s)

/-- Steps 1 to 5 of Table SEC-5: the sideband, the herd, the Hopper lock, keys and regions, engines, both L2 halves. Every
Hopper is disabled; a packet that one enabled since has fetched leaves without a reply (log 113). -/
def State.debugErase (s : State) : State :=
  let s := s.failOut.dissolve
  let s := (s.pkts.map (·.id)).foldl State.abort s
  let s : State := { s with
    pkts := []
    hops := s.hops.map fun k => { k.rewind with en := false, halted := false, deferred := none }
    sec := { s.sec with hopLock := true, slots := List.replicate 16 {}, queue := [],
                        regions := s.sec.regions.map fun r => { r with enable := false } }
    ctxs := []
    parts := s.parts.map fun q => { q with frames := [] }
    fallow := []
    pwr := { s.pwr with westDoze := false, eastDoze := false }
    engines := s.engines.mapIdx fun e g =>
      { g.emptied with power := if (s.enginePart e).isSome && g.power = .doze then .idle else g.power } }
  s.modMem fun m => { m with lines := [], flight := [] }

/-- The response's key is the one whose hash is fused; its signature verifies over the challenge block (R364). -/
def State.dbgKeyOk (s : State) : Bool := sha384 (s.sec.checking.1.take 96) = s.sec.inForce.debugKeyHash.toNat
def State.dbgSigOk (s : State) : Bool := signed (s.sec.checking.1.take 96) (s.sec.checking.1.drop 96) s.sec.checking.2

/-- DEBUG_VERIFY_DONE of the response that holds this key and this signature (R364, R366). -/
def debugVerify (key sig : List (BitVec 8)) (s : State) : State :=
  if s.sec.dbg != 2 || !s.running || s.sec.checking.1 != key ++ sig then s
  else
    let t := s.modSec fun x => { x with checking := ([], []) }
    if !s.dbgKeyOk then t.dbgFail 0x9
    else if !s.dbgSigOk then t.dbgFail 0xA
    else (t.modSec fun x => { x with dbg := 3, dbgFails := 0 }).debugErase

def execDebugVerifyDone (key sig : List (BitVec 8)) (s : State) : Host.Outcome State Fault Refusal :=
  noted true (debugVerify key sig s)

/-- DEBUG_ERASE_DONE: steps 6 and 7; a non-zero word leaves the device halted, every Hopper locked. -/
def debugEraseDone (nonZero : Option Nat) (s : State) : State :=
  if s.sec.dbg != 3 || !s.running then s
  else
    match nonZero with
    | some off => (s.modSec fun x => { x with dbg := 0xE }).fatal { cause := 0x32, a := BitVec.ofNat 64 off }
    | none =>
      let s := s.modSec fun x => { x with dbg := 4, hopLock := false }
      ({ s with mode := .debugOpen, aon := { s.aon with debugOpened := true } }).log 0x31 0x40 none (b2n s.sec.tapPath) 0

def execDebugEraseDone (nonZero : Option Nat) (s : State) : Host.Outcome State Fault Refusal :=
  noted true (debugEraseDone nonZero s)

/-! ### What the block shows -/

def State.dbgWord (s : State) : Nat := s.sec.dbg + 16 * s.sec.dbgFails

end Sys2Proof.Machine
end

