-- ==== Sys2Proof/Machine/Flash.lean ====
section
/-! DEFINITION. The boot flash through the FLASH registers of Fallow mode (14 R383, Table REG-8). -/
namespace Sys2Proof.Machine

/-- BAR0 offset of the AON mirror block. -/
def aonBase : Nat := 0x10000

def flashSize : Nat := 0x800000

def State.modFlash (s : State) (f : Flash → Flash) : State := { s with flash := f s.flash }

/-- FLASH_CMD written in FALLOW: ignored while BUSY; a misaligned command sets ERROR and does nothing else. The operation runs
on the address, length and data that the registers hold as it begins. -/
def State.flashCmd (s : State) (word : Nat) : State :=
  let x := s.flash
  let op := word % 4
  if s.mode != .fallow || x.busy || op = 0 then s.regIgnored (aonBase + 0x100) word
  else if (op = 2 && x.addr % 4096 != 0) || (op = 3 && x.addr % 256 != 0) then s.modFlash fun x => { x with error := true }
  else s.modFlash fun x =>
    { x with busy := true, error := false, op := op, opAddr := x.addr, opLen := x.len, opData := x.data.take x.len }

def execFlashRead (f : Nat) (s : State) : Host.Outcome State Fault Refusal :=
  bounded (f < 16) (s.pfOnly f (aonBase + 0x100) fun s => s.flashCmd 1)
def execFlashErase4k (f : Nat) (s : State) : Host.Outcome State Fault Refusal :=
  bounded (f < 16) (s.pfOnly f (aonBase + 0x100) fun s => s.flashCmd 2)
def execFlashProgram (f : Nat) (s : State) : Host.Outcome State Fault Refusal :=
  bounded (f < 16) (s.pfOnly f (aonBase + 0x100) fun s => s.flashCmd 3)

/-- A byte programmed over another: over an erased one, or where no bit rises, it is the new byte; otherwise the manual does
not state it (free value, log 76). -/
def programByte (ctr i : Nat) (old new : BitVec 8) : BitVec 8 :=
  if old &&& new = new then new else Config.openByte ctr i

def programBytes (ctr : Nat) (m : List Host.Cell) (a i : Nat) : List (BitVec 8) → List Host.Cell
  | [] => m
  | b :: t => programBytes ctr (writeCell 0xFF m (a + i) (programByte ctr i (readCell 0xFF m (a + i)) b)) a (i + 1) t

/-- The bytes a READ gives: beyond the 8 MiB of the two slots the manual states none (free value, log 76). -/
def Flash.readOut (x : Flash) (ctr : Nat) : List (BitVec 8) :=
  (List.range x.opLen).map fun i =>
    if x.opAddr + i < flashSize then readCell 0xFF x.cells (x.opAddr + i) else Config.openByte ctr i

/-- FLASH_OP_DONE: the operation's effect, or ERROR when the flash part was too slow. -/
def flashOpDone (inTime : Bool) (s : State) : State :=
  let x := s.flash
  if !x.busy || s.mode != .fallow then s
  else if !inTime then s.modFlash fun x => { x with busy := false, error := true }
  else
    match x.op with
    | 1 => s.draw.modFlash fun x => { x with busy := false, data := x.readOut s.free ++ x.data.drop x.opLen }
    | 2 => s.modFlash fun x => { x with busy := false, cells := writeCells 0xFF x.cells x.opAddr (List.replicate 4096 0xFF) }
    | _ => s.draw.modFlash fun x => { x with busy := false, cells := programBytes s.free x.cells x.opAddr 0 x.opData }

def execFlashOpDone (inTime : Bool) (s : State) : Host.Outcome State Fault Refusal := bounded true (flashOpDone inTime s)

end Sys2Proof.Machine
end

