-- ==== Sys2Proof/Machine/RegMap.lean ====
section
/-!
DEFINITION. The registers of BAR0 (14 R374 to R397): at each offset who reads it, who writes it, its value, and what a
write does. Values follow the field maps of Tables REG-3 to REG-26.
-/
namespace Sys2Proof.Machine

/-- A register as one function meets it (R375, R376). -/
structure RegView where
  wide : Bool := false                        -- 64 bits
  rd : Bool                                   -- the function may read it
  wr : Bool                                   -- the function reaches it with writes
  val : Nat
  set : Option (Nat → State → State) := none  -- none: RO

/-- Scopes of Table REG-1. -/
def roAll (f v : Nat) (wide : Bool := false) : RegView := { wide := wide, rd := true, wr := f = 0, val := v }
def roG (f v : Nat) (wide : Bool := false) : RegView := { wide := wide, rd := f = 0, wr := f = 0, val := v }
def rwG (f v : Nat) (g : Nat → State → State) : RegView := { rd := f = 0, wr := f = 0, val := v, set := some g }
def ownReg (ok : Bool) (v : Nat) (g : Option (Nat → State → State)) (wide : Bool := false) : RegView :=
  { wide := wide, rd := ok, wr := ok, val := v, set := g }

/-- A write outside the legal range leaves the field unchanged and is logged (00 R12). -/
def ranged (off : Nat) (ok : Nat → Bool) (g : Nat → State → State) : Nat → State → State :=
  fun v s => if ok v then g v s else s.regIgnored off v

/-- Function f holds partition p, or is the physical function. -/
def State.holdsPart (s : State) (f p : Nat) : Bool := f = 0 || s.funcPart f = some p

/-! ### GLB (Tables REG-3 to REG-5) -/

def State.modGlb (s : State) (f : Glb → Glb) : State := { s with glb := f s.glb }

def State.glbStatus (s : State) : Nat :=
  b2n (s.mode = .ready) + 2 * b2n (s.mode = .fallow) + 4 * b2n (s.mode = .debugOpen) + 8 * b2n s.herd.formed +
    16 * b2n s.pwr.deepGrant

def State.partMap (s : State) (p : Nat) : Nat :=
  let q := s.part p
  q.mask.toNat + q.func * 2 ^ 8 + b2n q.spread * 2 ^ 12 + b2n q.tickPin * 2 ^ 13 +
    b2n (q.tickPin && s.ppsHolds) * 2 ^ 14 + b2n q.demoteEn * 2 ^ 15

/-- BAR2_XLAT_x: RWL under LOCK (R378). -/
def State.setXlat (s : State) (x v : Nat) : State :=
  let u := field v 39 30
  if s.glb.lock && s.glb.bar2Xlat.getD x 0 != u then s.regIgnored (0x80 + 8 * x) v
  else s.modGlb fun g => { g with bar2Xlat := g.bar2Xlat.set x u }

/-- CTX_WAIT_LIMIT: ignored and logged while a herd is formed (R391). -/
def State.setCtxWait (s : State) (v : Nat) : State :=
  let x := v % 65536
  if s.herd.formed || x = 0 || x > 10000 then s.regIgnored 0x18 v else s.modGlb fun g => { g with ctxWaitLimit := x }

def State.glbReg (s : State) (f o : Nat) : Option RegView :=
  if o = 0 then some (roAll f (0xB1 + (if s.glb.grade14 then 0x0E else 0x0C) * 2 ^ 8 + 0x0880 * 2 ^ 16))
  else if o = 0x8 then some (roAll f Config.serial.toNat true)
  else if o = 0x10 then some (rwG f (b2n s.glb.lock) fun v s => if bit v 0 then s.modGlb fun g => { g with lock := true } else s)
  else if o = 0x14 then some (roAll f s.glbStatus)
  else if o = 0x18 then some (rwG f s.glb.ctxWaitLimit fun v s => s.setCtxWait v)
  else if o = 0x20 then some (roAll f s.conflicts.toNat)
  else if o = 0x24 then
    some (rwG f s.glb.conflictSeen.toNat fun v s => s.modGlb fun g => { g with conflictSeen := g.conflictSeen &&& ~~~ BitVec.ofNat 6 v })
  else if o = 0x28 then some (rwG f s.glb.tickMerged.toNat fun v s => s.modGlb fun g => { g with tickMerged := BitVec.ofNat 32 v })
  else if 0x40 ≤ o && o < 0x60 then
    let p := (o - 0x40) / 4
    some (ownReg (s.holdsPart f p) (s.partMap p) none)
  else if 0x80 ≤ o && o < 0x100 && o % 8 = 0 then
    let x := (o - 0x80) / 8
    some { wide := true, rd := f = 0 || f = x, wr := f = 0, val := s.glb.bar2Xlat.getD x 0 * 2 ^ 30, set := some fun v s => s.setXlat x v }
  else if 0x100 ≤ o && o < 0x200 then
    let p := (o - 0x100) / 0x20
    let q := s.part p
    let ok := s.holdsPart f p
    match (o - 0x100) % 0x20 with
    | 0x00 => some (ownReg ok q.epochCount.toNat none)
    | 0x04 => some (ownReg ok q.frameCount.toNat none)
    | 0x08 => some (ownReg ok q.frameTime.toNat none true)
    | 0x10 => some (ownReg ok q.frameMirror.toNat
        (some fun v s => s.modPart p fun q => { q with frameMirror := BitVec.ofNat 64 (field v 39 2 * 4) }) true)
    | _ => none
  else none

/-! ### AON mirror (Tables REG-6 to REG-8) -/

/-- State of SMBus STATUS [2:0] (12 Table PWR-11). -/
def State.stateCode (s : State) : Nat :=
  match s.mode with
  | .deep => 1
  | .fallow => 6
  | .debugOpen => 7
  | .hold => 5
  | .ready | .halted =>
    if s.engines.any fun g => g.run.isSome || g.susp.isSome then 4
    else if s.pwr.westDoze && s.pwr.eastDoze then 2
    else 3
  | _ => 0

def State.aonStatus (s : State) : Nat :=
  s.stateCode + 8 * b2n s.aon.xtalFail + 16 * b2n s.pins.hbIn + 32 * b2n s.pins.failIn + 64 * b2n s.pwr.trip

def State.modAon (s : State) (f : Aon → Aon) : State := { s with aon := f s.aon }

def State.bootState (s : State) : Nat :=
  s.aon.attempts + s.aon.reason * 2 ^ 8 + b2n s.aon.bootSlot * 2 ^ 16 + s.aon.bootSel * 2 ^ 17 + b2n s.aon.debugOpened * 2 ^ 19

/-- The 32 bytes of an ERRLOG entry (13 Table SEC-7). -/
def ErrEntry.bytes (e : ErrEntry) : List (BitVec 8) :=
  leBytes 4 (e.cause + e.cls * 2 ^ 8 + (match e.part with | some p => 2 ^ 11 + p * 2 ^ 12 | none => 0) + e.hopper * 2 ^ 16 +
    e.unit * 2 ^ 24) ++
  leBytes 4 (e.tag.toNat + e.status * 2 ^ 16 + e.count * 2 ^ 24) ++ leBytes 8 e.a.toNat ++ leBytes 8 e.b.toNat ++
  leBytes 8 e.time.toNat

/-- An empty entry reads as zeros. -/
def ErrEntry.shown (e : ErrEntry) : List (BitVec 8) := if e.cause = 0 then List.replicate 32 0 else e.bytes

def dwordAt (b : List (BitVec 8)) (o : Nat) : Nat := ofBytes ((b.drop o).take 4)

/-- FLASH registers: they read 0 and refuse writes outside FALLOW (R383). -/
def State.flashReg (s : State) (f o : Nat) : Option RegView :=
  let live := s.mode = .fallow
  let v (n : Nat) : Nat := if live then n else 0
  let g (h : Nat → State → State) : Nat → State → State := fun x s => if live then h x s else s.regIgnored (aonBase + o) x
  if o = 0x100 then some (rwG f 0 fun x s => s.flashCmd x)
  else if o = 0x104 then some (rwG f (v s.flash.addr) (g fun x s => s.modFlash fun y => { y with addr := x % 2 ^ 23 }))
  else if o = 0x108 then
    some (rwG f (v s.flash.len) (g (ranged (aonBase + o) (fun x => 1 ≤ x % 512 && x % 512 ≤ 256)
      fun x s => s.modFlash fun y => { y with len := x % 512 })))
  else if o = 0x10C then
    let st : RegView := roG f (v (b2n s.flash.busy + 2 * b2n s.flash.error))
    some (if live then st else { st with set := some (g fun _ s => s) })
  else if 0x200 ≤ o && o < 0x300 then
    let i := o - 0x200
    some (rwG f (v (dwordAt s.flash.data i))
      (g fun x s => s.modFlash fun y => { y with data := y.data.take i ++ leBytes 4 x ++ y.data.drop (i + 4) }))
  else none

/-- TELEMETRY_PERIOD, shared with SMBus 0x06. -/
def State.setPeriod (s : State) (v : Nat) : State := s.modAon fun a => { a with period := v }

def State.aonReg (s : State) (f o : Nat) : Option RegView :=
  if o = 0 then
    some { rd := true, wr := f = 0, val := s.aonStatus,
           set := some fun v s => if bit v 3 then s.modAon fun a => { a with xtalFail := false } else s }
  else if o = 4 then some (roAll f s.bootState)
  else if o = 8 then some (roG f s.aon.detail.toNat)
  else if o = 0xC then
    some (rwG f s.aon.period (ranged (aonBase + o) (fun v => 1 ≤ v % 65536 && v % 65536 ≤ 60000) fun v s => s.setPeriod (v % 65536)))
  else if o = 0x10 then
    some (rwG f s.aon.alert.toNat fun v s => s.modAon fun a => { a with alert := a.alert &&& ~~~ BitVec.ofNat 8 (v % 64) })
  else if o = 0x14 then some (rwG f s.aon.alertMask.toNat fun v s => s.modAon fun a => { a with alertMask := BitVec.ofNat 8 (v % 64) })
  else if 0x20 ≤ o && o < 0x38 then some (roG f (s.aon.summary.getD ((o - 0x20) / 4) 0))
  else if 0x40 ≤ o && o < 0x60 then some (roG f (dwordAt s.aon.firstFatal.shown (o - 0x40)))
  else s.flashReg f o

/-! ### Hoppers (Table CMD-1, Tables REG-9 to REG-12) -/

def Hopper.ctrl (k : Hopper) : Nat :=
  b2n k.en + k.cls * 2 + b2n k.loc * 8 + b2n k.stopOnErr * 16 + b2n k.errIrq * 32 + k.part * 2 ^ 8 + k.func * 2 ^ 12 +
    k.cmdLog2 * 2 ^ 16 + k.cplLog2 * 2 ^ 24

def State.hopStatus (s : State) (h : Nat) : Nat :=
  let k := s.hop h
  let w : Wait := match s.front h with | some p => p.wait | none => .none
  let fence : Bool := match w with | .fence _ => true | _ => false
  b2n (s.idle h) + 2 * b2n k.halted + 4 * b2n k.classRefused + 8 * b2n k.dbErr + 16 * b2n k.dbDrop + 32 * b2n k.cplFull +
    64 * b2n (w == .ctx) + 128 * b2n fence

def Hopper.irqWord (k : Hopper) : Nat := k.irqVec + k.irqTime * 2 ^ 12 + k.irqCount * 2 ^ 22

/-- A base as it reads: under LOC 1 its bits [63:40] are reserved (Table REG-9). -/
def Hopper.baseShown (k : Hopper) (b : BitVec 64) : Nat := if k.loc then b.toNat % 2 ^ 40 else b.toNat

/-- A ring base: written only while EN is clear and IDLE is set (R55 Edges); reserved bits read 0. -/
def State.setBase (s : State) (h o v : Nat) : State :=
  let k := s.hop h
  if k.en || !s.idle h then s.regIgnored (hopOff h + o) v
  else
    let w := if k.loc then v % 2 ^ 40 else v
    if o = 8 then s.modHop h fun k => { k with cmdBase := BitVec.ofNat 64 (w / 64 * 64) }
    else s.modHop h fun k => { k with cplBase := BitVec.ofNat 64 (w / 32 * 32) }

def State.hopReg (s : State) (f h o : Nat) : Option RegView :=
  let k := s.hop h
  let ok := s.hopReach f h
  match o with
  | 0x00 => some (ownReg ok k.ctrl (some fun v s => s.hopCtrl f h v))
  | 0x04 => some (ownReg ok (s.hopStatus h) (some fun v s => s.modHop h fun k => { k with
      classRefused := k.classRefused && !bit v 2, dbErr := k.dbErr && !bit v 3, dbDrop := k.dbDrop && !bit v 4 }))
  | 0x08 => some (ownReg ok (k.baseShown k.cmdBase) (some fun v s => s.setBase h 8 v) true)
  | 0x10 => some (ownReg ok (k.baseShown k.cplBase) (some fun v s => s.setBase h 0x10 v) true)
  | 0x18 => some (ownReg ok k.head none)
  | 0x1C => some (ownReg ok k.tail none)
  | 0x20 => some (ownReg ok k.cplTail none)
  | 0x24 => some (ownReg ok k.cplHead none)
  | 0x28 => some (ownReg ok k.irqWord (some fun v s => hopIrqWrite f h (BitVec.ofNat 32 v) s))
  | 0x2C => some (ownReg ok k.done.toNat none)
  | _ => none

/-! ### CACHE (Tables REG-13, REG-14) -/

def cacheBase : Nat := 0x200000

/-- One GRANULE_OWN field of a dword write (R189, R191, R386): whether it is refused, and the state after it. -/
def State.setGranule (s : State) (g v : Nat) : Bool × State :=
  let old := s.mem.owner.getD g 0xF
  if v = old then (false, s)
  else
    let owner := s.mem.owner.set g v
    let spreadBad := (List.range 8).any fun p => (s.part p).spread && !wholeRows owner p
    if !s.tenantsOff || (8 ≤ v && v ≤ 0xE) || old = 0xE || spreadBad then (true, s)
    else (false, s.modMem fun m => { m with owner := owner })

/-- GRANULE_OWN dword d. -/
def State.setGranules (s : State) (d v : Nat) : State :=
  let (bad, s) := (List.range 8).foldl (fun (acc : Bool × State) i =>
    let (b, t) := acc.2.setGranule (8 * d + i) (field v (4 * i + 3) (4 * i))
    (acc.1 || b, t)) (false, s)
  if bad then s.regIgnored (cacheBase + 4 * d) v else s

def State.granuleWord (s : State) (d : Nat) : Nat :=
  (List.range 8).foldl (fun n i => n + s.mem.owner.getD (8 * d + i) 0xF * 16 ^ i) 0

def State.pressureWord (s : State) (f : Nat) : Nat :=
  (List.range 8).foldl (fun n p => n + b2n ((s.part p).pressure && s.holdsPart f p) * 2 ^ p) 0

/-- PRESSURE_LIMIT_p: a write restarts the monitor's current window. -/
def State.setLimit (s : State) (p v : Nat) : State := s.modPart p fun q => { q with limit := v % 256, accesses := 0, misses := 0 }

/-- A disabled window is reached by the physical function alone (R386). -/
def State.winReach (s : State) (f n : Nat) : Bool :=
  let w := s.wins.getD n {}
  f = 0 || (w.enable && s.funcPart f = some w.part)

def Window.ctrl (w : Window) : Nat :=
  w.cls + w.quota * 2 ^ 8 + b2n w.enable * 2 ^ 12 + b2n w.demoted * 2 ^ 13 + (if w.enable then w.part * 2 ^ 16 else 0)

def State.cacheReg (s : State) (f o : Nat) : Option RegView :=
  if o < 0x30 then
    some { rd := true, wr := f = 0, val := s.granuleWord (o / 4), set := some fun v s => s.setGranules (o / 4) v }
  else if o = 0x40 then
    some { rd := true, wr := f = 0, val := s.pressureWord f,
           set := some fun v s => { s with parts := s.parts.mapIdx fun p q => { q with pressure := q.pressure && !bit v p } } }
  else if 0x80 ≤ o && o < 0xA0 then
    let p := (o - 0x80) / 4
    some (ownReg (s.holdsPart f p) (s.part p).limit (some fun v s => s.setLimit p v))
  else if 0xC0 ≤ o && o < 0xE0 then
    let p := (o - 0xC0) / 4
    some (ownReg (s.holdsPart f p) (s.part p).dupFill.toNat (some fun v s => s.modPart p fun q => { q with dupFill := BitVec.ofNat 32 v }))
  else if 0x100 ≤ o && o < 0x200 && o % 0x10 = 0 then
    let n := (o - 0x100) / 0x10
    some (ownReg (s.winReach f n) (s.wins.getD n {}).base none true)
  else if 0x100 ≤ o && o < 0x200 && o % 0x10 = 8 then
    let n := (o - 0x100) / 0x10
    some (ownReg (s.winReach f n) (s.wins.getD n {}).size none true)
  else if 0x200 ≤ o && o < 0x240 then
    let n := (o - 0x200) / 4
    some (ownReg (s.winReach f n) (s.wins.getD n {}).ctrl none)
  else if 0x240 ≤ o && o < 0x280 then
    let n := (o - 0x240) / 4
    some (ownReg (s.winReach f n) (s.wins.getD n {}).short.toNat (some fun v s => s.modWin n fun w => { w with short := BitVec.ofNat 32 v }))
  else if 0x400 ≤ o && o < 0x600 && o % 8 = 0 then
    let n := (o - 0x400) / 0x10
    let p := n / 4
    let q := s.part p
    let size := o % 0x10 = 8
    let put (v : Nat) (q : Part) : Part :=
      let x := BitVec.ofNat 64 (field v 39 12 * 4096)
      if size then { q with roSize := q.roSize.set (n % 4) x } else { q with roBase := q.roBase.set (n % 4) x }
    some (ownReg (s.holdsPart f p) ((if size then q.roSize else q.roBase).getD (n % 4) 0).toNat (some fun v s => s.modPart p (put v)) true)
  else none

/-! ### ENGINE and CTX (Tables REG-15 to REG-17) -/

def ctxBase : Nat := 0x220000

/-- Segments an engine holds (R200 Edges), and their staging pages. -/
def Engine.segs (g : Engine) : Nat := ([g.run, g.susp].filterMap id).length
def Engine.staging (g : Engine) : Nat := (([g.run, g.susp].filterMap id).flatMap (·.pages)).length

def State.engineStatus (s : State) (e : Nat) : Nat :=
  let g := s.eng e
  let pt := s.enginePart e
  let power : Nat := if g.fenced || pt.isNone then 3 else match g.power with | .active => 0 | .idle => 1 | .doze | .deep => 2
  b2n g.fenced + g.cause * 2 + pt.getD 0 * 16 + b2n pt.isSome * 128 + power * 2 ^ 8 + g.segs * 2 ^ 10

def State.engineReg (s : State) (f o : Nat) : Option RegView :=
  if o = 0 then some (roAll f (fencedMask s))
  else if o = 4 then some (roAll f (0xFF - s.badEngines.toNat))
  else if 0x40 ≤ o && o < 0x60 then
    let e := (o - 0x40) / 4
    let mine : Bool := match s.enginePart e with | some p => s.funcPart f = some p | none => false
    some { rd := f = 0 || mine, wr := f = 0, val := s.engineStatus e }
  else if 0x80 ≤ o && o < 0xC0 && o % 8 = 0 then some (roG f (s.eng ((o - 0x80) / 8)).tilesDone.toNat true)
  else none

def State.urgentUsed (s : State) (e : Nat) : Nat :=
  (s.ctxs.filter fun c => handleEngine c.handle = e && handleSlot c.handle < 256).length

/-- Slots held by p, and its Hoppers with CTX_WAIT set. -/
def State.ctxPart (s : State) (p : Nat) : Nat :=
  (s.ctxs.filter fun c => c.part = p).length + (s.pkts.filter fun q => q.part = p && q.wait == .ctx).length * 2 ^ 17

def Engine.pagesWord (g : Engine) : Nat := g.freePages + g.staging * 2 ^ 8 + g.resident.length * 2 ^ 16

def State.setPeak (s : State) (e v : Nat) : State := s.modEng e fun g => { g with peak := v % 2 ^ 14 }

def State.ctxReg (s : State) (f o : Nat) : Option RegView :=
  if o < 0x40 then
    let e := o / 8
    if o % 8 = 0 then some (roAll f (s.occupancy e + s.urgentUsed e * 2 ^ 16))
    else some (rwG f (s.eng e).peak fun v s => s.setPeak e v)
  else if 0x80 ≤ o && o < 0xA0 then
    let p := (o - 0x80) / 4
    some (ownReg (s.holdsPart f p) (s.ctxPart p) none)
  else if 0xC0 ≤ o && o < 0xE0 then some (roG f (s.eng ((o - 0xC0) / 4)).pagesWord)
  else if 0x100 ≤ o && o < 0x140 then
    let p := (o - 0x100) / 8
    let q := s.part p
    if o % 8 = 0 then
      some (ownReg (s.holdsPart f p) q.pageOuts.toNat (some fun v s => s.modPart p fun q => { q with pageOuts := BitVec.ofNat 32 v }))
    else some (ownReg (s.holdsPart f p) q.pageIns.toNat (some fun v s => s.modPart p fun q => { q with pageIns := BitVec.ofNat 32 v }))
  else if 0x140 ≤ o && o < 0x160 then
    let p := (o - 0x140) / 4
    some (ownReg (s.holdsPart f p) (s.part p).frames.length none)
  else none

/-! ### SLUICE (Tables REG-18, REG-19) -/

def State.pagesWith (s : State) (i : Nat) : Nat := ((List.range s.paramPages).filter fun p => (s.pageState p).getLsbD i).length

def State.stepState (s : State) : Nat :=
  b2n (s.regions.paramSize != 0) + 2 * b2n s.train.undoOk + 4 * b2n s.train.undecided + 8 * b2n (s.pagesWith 1 != 0) +
    16 * b2n s.train.ckpt.isSome + 32 * b2n s.train.restore.isSome

def State.replayStatus (s : State) : Nat :=
  b2n s.replay.armed.isSome + 2 * b2n s.replay.truncated + 4 * b2n (s.replay.recs != []) + s.replay.recs.length * 2 ^ 16

def State.sluiceReg (s : State) (f o : Nat) : Option RegView :=
  let t := s.train
  if o = 0 then some (roAll f t.committed.toNat true)
  else if o = 8 then some (roAll f s.stepState)
  else if o = 0x10 then
    some { rd := true, wr := f = 0, val := t.pageSel,
           set := some fun v s => { s with train := { s.train with pageSel := v % 2 ^ 17 } } }
  else if o = 0x14 then some (roAll f (if t.pageSel < s.paramPages then (s.pageState t.pageSel).toNat else 0))
  else if o = 0x18 then some (roAll f (s.pagesWith 3))
  else if o = 0x20 then some (roAll f t.twinNew.toNat true)
  else if o = 0x28 then some (roAll f t.twinOld.toNat true)
  else if o = 0x30 then some (roAll f s.replayStatus)
  else if 0x40 ≤ o && o < 0x80 && o % 0x10 = 0 then some (roAll f (b2n (t.busy.getD ((o - 0x40) / 0x10) false)))
  else if 0x40 ≤ o && o < 0x80 && o % 0x10 = 8 then some (roAll f (t.params.getD ((o - 0x40) / 0x10) 0).toNat true)
  else none

/-! ### HERD (Tables REG-20 to REG-22) -/

def herdBase : Nat := 0x240000

def State.modHerd (s : State) (f : Herd → Herd) : State := { s with herd := f s.herd }

def State.herdStatus (s : State) : Nat :=
  let h := s.herd
  b2n h.formed + 2 * b2n h.dissolved + 4 * b2n h.drift + 8 * b2n s.isLeader + 16 * b2n h.recoveryValid + h.part * 2 ^ 5 +
    h.self * 2 ^ 8 + h.leader * 2 ^ 16 + (if h.formed then h.members.length else 0) * 2 ^ 24

def Port.status (k : Port) : Nat :=
  k.state + k.attempts * 4 + k.polarity.toNat * 16 + k.farId * 2 ^ 8 + k.farPort * 2 ^ 16

/-- HERD_CTRL (R391): a port that is DOWN starts a new series of attempts. -/
def State.setHerdCtrl (s : State) (v : Nat) : State :=
  let s := s.modHerd fun h => { h with ppsEn := bit v 0, eventIrqEn := bit v 1, eventVec := field v 18 8 }
  (List.range 4).foldl (fun s p => if bit v (4 + p) then s.retrainPort p else s) s

def State.setHerdWait (s : State) (v : Nat) : State :=
  let x := v % 65536
  if s.herd.formed || x = 0 || x > 60000 then s.regIgnored (herdBase + 8) v else s.modHerd fun h => { h with waitLimit := x }

def State.herdReg (s : State) (f o : Nat) : Option RegView :=
  let h := s.herd
  if o = 0 then some (roAll f s.herdStatus)
  else if o = 4 then some (roAll f h.formCount.toNat)
  else if o = 8 then some (rwG f h.waitLimit fun v s => s.setHerdWait v)
  else if o = 0xC then
    some (rwG f h.hbTimeout (ranged (herdBase + o) (fun v => v % 256 ≥ 2) fun v s => s.modHerd fun h => { h with hbTimeout := v % 256 }))
  else if o = 0x10 then
    some (rwG f (b2n h.ppsEn + 2 * b2n h.eventIrqEn + h.eventVec * 2 ^ 8) fun v s => s.setHerdCtrl v)
  else if o = 0x14 then
    some (rwG f h.event.toNat fun v s => s.modHerd fun h => { h with event := h.event &&& ~~~ BitVec.ofNat 7 v })
  else if o = 0x18 then some (roAll f (h.offset % 2 ^ 32).toNat)
  else if o = 0x20 then some (roAll f s.now.toNat true)
  else if o = 0x28 then some (roAll f h.lostMask.toNat true)
  else if o = 0x30 then some (roAll f h.recoveryStep.toNat true)
  else if o = 0x38 then some (roG f (h.failId + h.failOp * 2 ^ 8 + b2n h.failValid * 2 ^ 16))
  else if o = 0x40 then some (roG f h.failStep.toNat true)
  else if 0x80 ≤ o && o < 0xC0 then
    let i := o - 0x80
    some (roAll f ((List.range 4).foldl (fun n j => n + h.spareMap.getD (i + j) 0xFF * 256 ^ j) 0))
  else if 0x100 ≤ o && o < 0x180 then
    let k := s.port ((o - 0x100) / 0x20)
    match (o - 0x100) % 0x20 with
    | 0x00 => some (roAll f k.status)
    | 0x04 => some (roG f k.crcCnt.toNat)
    | 0x08 => some (roG f k.nakCnt.toNat)
    | 0x0C => some (roG f k.retrainCnt.toNat)
    | 0x10 => some (roG f k.downCnt.toNat)
    | _ => none
  else none

/-! ### PWR (Table REG-23) -/

def pwrBase : Nat := 0x250000

def State.modPwr (s : State) (f : Pwr → Pwr) : State := { s with pwr := f s.pwr }

def State.pwrStatus (s : State) : Nat :=
  b2n s.pwr.twinAbsent + 2 * b2n s.pwr.twinDisagree + 4 * b2n s.verdictLost + 8 * b2n s.pwr.hbArmed + 16 * b2n s.pwr.westDoze +
    32 * b2n s.pwr.eastDoze + 64 * b2n s.pwr.deepGrant

/-- Causes of throttling that hold (12 R338); a power estimate is in 1/8 W. -/
def State.hotCause (s : State) : Bool := s.pwr.tempMax ≥ 840
def State.powerCause (s : State) : Bool := s.pwr.power > 8 * s.pwr.limit

def State.throttleWord (s : State) : Nat :=
  s.pwr.sixteenths + b2n s.hotCause * 2 ^ 8 + b2n s.pins.prochot * 2 ^ 9 + b2n s.powerCause * 2 ^ 10

def State.limitOk (s : State) (v : Nat) : Bool := 100 ≤ v && v ≤ s.glb.tdp

def State.pwrReg (s : State) (f o : Nat) : Option RegView :=
  let p := s.pwr
  if o = 0 then some (roAll f s.pwrStatus)
  else if o = 4 then
    some (rwG f p.idleDelay (ranged (pwrBase + o) (fun v => 5 ≤ v % 1024 && v % 1024 ≤ 1000) fun v s => s.modPwr fun p => { p with idleDelay := v % 1024 }))
  else if o = 8 then
    some (rwG f p.dozeDelay (ranged (pwrBase + o) (fun v => v % 1024 ≤ 1000) fun v s => s.modPwr fun p => { p with dozeDelay := v % 1024 }))
  else if o = 0xC then
    some (rwG f p.limit (ranged (pwrBase + o) (fun v => s.limitOk (v % 1024)) fun v s => s.modPwr fun p => { p with limit := v % 1024 }))
  else if o = 0x10 then some (roAll f s.throttleWord)
  else if o = 0x14 then some (roAll f (p.tempMax % 65536).toNat)
  else if o = 0x18 then some (roAll f (p.power % 65536))
  else if o = 0x1C then some (roG f p.hintDuration.toNat)
  else if o = 0x20 then some (rwG f p.throttleCnt.toNat fun v s => s.modPwr fun p => { p with throttleCnt := BitVec.ofNat 32 v })
  else none

/-! ### SEC (Table REG-24) -/

/-- Every function sees its own partition's slots; the physical function sees all (R394). -/
def State.slotReach (s : State) (f n : Nat) : Bool :=
  let k := s.sec.slots.getD n {}
  f = 0 || (k.state != 0 && s.funcPart f = some k.owner)

def State.regionReach (s : State) (f n : Nat) : Bool :=
  let r := s.sec.regions.getD n {}
  f = 0 || (r.enable && s.slotReach f r.slot)

def State.slotWord (s : State) (n : Nat) : Nat :=
  let k := s.sec.slots.getD n {}
  k.state + 4 * b2n (s.bound n) + k.owner * 16

def Region.baseWord (r : Region) : Nat := b2n r.enable + r.slot * 16 + r.base

def State.secStatus (s : State) : Nat :=
  let x := s.sec
  b2n x.fuseOp.isSome + 2 * b2n x.fuseFail + x.inForce.revoke.toNat * 4 + b2n x.inForce.debugDisable * 64 +
    x.inForce.rollback * 2 ^ 8 + s.image.keyIndex * 2 ^ 16 + b2n s.image.slotB * 2 ^ 18

/-- KEY_CMD as one word. The word has no field for ASSIGN's partition: it is a free value (log 77). -/
def State.keyWord (s : State) (f v : Nat) : State :=
  if v % 16 = 1 then s.draw.keyWrite f 1 (field v 11 8) ((Config.openByte s.free 0).toNat % 8) v
  else s.keyWrite f (v % 16) (field v 11 8) 0 v

/-- DBG_RESPONSE holds what is written while a challenge stands. -/
def State.setResponse (s : State) (i v : Nat) : State :=
  s.modSec fun x => { x with response := x.response.take i ++ leBytes 4 v ++ x.response.drop (i + 4) }

def State.secReg (s : State) (f o : Nat) : Option RegView :=
  if o = 0 then some (ownReg true 0 (some fun v s => s.keyWord f v))
  else if o = 4 then some (ownReg true (b2n (s.keyFunc f).refused + 2 * b2n (s.keyFunc f).busy) none)
  else if 0x40 ≤ o && o < 0x80 then
    let i := (o - 0x40) / 4
    let put (v : Nat) (k : KeyFunc) : KeyFunc :=
      let old := k.data.toNat / 2 ^ (32 * i) % 2 ^ 32
      { k with data := BitVec.ofNat 512 (k.data.toNat - old * 2 ^ (32 * i) + v * 2 ^ (32 * i)) }
    some (ownReg true 0 (some fun v s => s.modKey f (put v)))
  else if 0x80 ≤ o && o < 0xC0 then
    let n := (o - 0x80) / 4
    some (ownReg (s.slotReach f n) (s.slotWord n) none)
  else if 0x100 ≤ o && o < 0x200 && o % 0x10 = 0 then
    let n := (o - 0x100) / 0x10
    some (ownReg (s.regionReach f n) (s.sec.regions.getD n {}).baseWord none true)
  else if 0x100 ≤ o && o < 0x200 && o % 0x10 = 8 then
    let n := (o - 0x100) / 0x10
    some (ownReg (s.regionReach f n) (s.sec.regions.getD n {}).size none true)
  else if o = 0x200 then some (rwG f 0 fun v s => s.fuseWrite v)
  else if o = 0x204 then
    some { rd := true, wr := f = 0, val := s.secStatus,
           set := some fun v s => if bit v 1 then s.modSec fun x => { x with fuseFail := false } else s }
  else if o = 0x300 then some (rwG f 0 fun v s => s.dbgReqWrite v)
  else if o = 0x304 then some (roAll f s.dbgWord)
  else if 0x340 ≤ o && o < 0x380 then some (roG f (dwordAt s.challenge (o - 0x340)))
  else if 0x400 ≤ o && o < 0x4C0 then some (rwG f 0 fun v s => s.setResponse (o - 0x400) v)
  else none

/-! ### ERRLOG (Table REG-25) -/

def errBase : Nat := 0x270000

/-- What function f reads of it (13 R371). -/
def State.errShown (s : State) (f i : Nat) : List (BitVec 8) :=
  let e := s.err.entries.getD i {}
  let mine : Bool := match e.part with | some p => s.funcPart f = some p | none => false
  if f = 0 || mine then e.bytes else List.replicate 32 0

def State.errClear (s : State) : State := { s with err := { s.err with entries := s.err.entries.map fun e => { e with cause := 0 }, head := 0 } }
def State.fatalClear (s : State) : State := s.modAon fun a => { a with firstFatal := {} }

def State.errReg (s : State) (f o : Nat) : Option RegView :=
  if o < 0x2000 then some { rd := true, wr := f = 0, val := dwordAt (s.errShown f (o / 0x20)) (o % 0x20) }
  else if o = 0x2000 then some (roAll f s.err.head)
  else if o = 0x2004 then some (rwG f s.err.lost.toNat fun v s => { s with err := { s.err with lost := BitVec.ofNat 32 v } })
  else if o = 0x2008 then some (rwG f s.err.mask fun v s => { s with err := { s.err with mask := v % 64 } })
  else if o = 0x200C then some (rwG f s.err.vec fun v s => { s with err := { s.err with vec := v % 2 ^ 11 } })
  else if o = 0x2010 then
    some (rwG f 0 fun v s =>
      let s := if bit v 0 then s.errClear else s
      if bit v 1 then s.fatalClear else s)
  else none

/-! ### DBG (Table REG-26) -/

def CtxSt.code : CtxSt → Nat
  | .opened => 1 | .ended => 2 | .closing => 3

/-- PAYLOAD of a Row Context (04 Table ACC-3) in the bytes it gives a layout; `ctr` is for those it gives none. -/
def Ctx.payload (c : Ctx) (ctr : Nat) : List (BitVec 8) :=
  let w (p : BitVec 32) : List (BitVec 8) := leBytes 4 p.toNat
  let pair (p : Pair) : List (BitVec 8) := if c.mode = 1 then w p.1 ++ w p.2 else w p.1 ++ leBytes 4 0
  let word (i : Nat) : Pair := c.acc.run.ws.getD i (0, 0)
  let body : List (BitVec 8) :=
    if c.kind = 8 then leBytes 1 c.k ++ (List.range 31).map fun i => Config.openByte ctr i
    else if (ctxKind c).isRank then
      match c.acc.run.best ++ [{ v := 0, idx := 0 }] with
      | r :: _ => w r.v ++ leBytes 4 0 ++ leBytes 8 (r.idx % 2 ^ 40)
      | [] => []
    else if c.mode = 2 then []
    else if c.kind = 4 then w c.acc.run.m ++ pair (word 0)
    else if c.kind = 5 then pair (word 0) ++ pair (word 1)
    else pair (word 0)
  (body ++ List.replicate 32 0).take 32

/-- The 64 bytes of a context slot (04 Tables ACC-1, ACC-2); a FREE slot reads as zeros. -/
def State.ctxEntry (s : State) (h : Nat) : List (BitVec 8) :=
  match s.ctx h with
  | none => List.replicate 64 0
  | some c =>
    let ctl := c.st.code + c.mode * 4 + c.kind * 16 + c.outFmt * 2 ^ 8 + c.rnd * 2 ^ 12 + b2n c.ovf * 2 ^ 14 + b2n c.nanSeen * 2 ^ 15 +
      b2n (c.count = 0) * 2 ^ 16 + b2n c.chained * 2 ^ 17 + b2n c.companion * 2 ^ 18 + c.part * 2 ^ 19 + c.cls * 2 ^ 22 + c.hop * 2 ^ 24
    let carry : Nat :=
      match c.record with
      | some (id, k) =>
        match ((s.eng (handleEngine h)).pages.find? fun r => r.id = id).map (·.at_) with
        | some (PageAt.resident n) => n + k * 128
        | _ => k * 128
      | none => 0
    leBytes 4 ctl ++ leBytes 2 c.chain ++ leBytes 2 c.tag.toNat ++ leBytes 8 c.keyword.toNat ++ leBytes 4 c.tiles ++
      leBytes 4 (if c.mode = 2 then carry else 0) ++ leBytes 8 (c.count % 2 ^ 40) ++ c.payload s.free

def State.dbgSel (s : State) (i : Nat) : Nat := (s.sec.dbgSel.getD i 0).toNat
def State.setDbgSel (s : State) (i v : Nat) : State :=
  s.modSec fun x => { x with dbgSel := (x.dbgSel ++ List.replicate (2 - x.dbgSel.length) 0).set i (BitVec.ofNat 32 v) }

/-- A dword whose contents the manual gives no layout. -/
def openDword (ctr o : Nat) : Nat := ofBytes ((List.range 4).map fun i => Config.openByte ctr (o + i))

/-- The block reads as zero and ignores writes outside DEBUG_OPEN (R397). -/
def State.dbgReg (s : State) (f o : Nat) : Option RegView :=
  if s.mode != .debugOpen then none
  else if o = 0 then some (rwG f (s.dbgSel 0) fun v s => s.setDbgSel 0 (v % 65536))
  else if 0x40 ≤ o && o < 0x80 then some (roG f (dwordAt (s.ctxEntry (s.dbgSel 0)) (o - 0x40)))
  else if o = 0x100 then some (rwG f (s.dbgSel 1) fun v s => s.setDbgSel 1 (v % 2 ^ 18))
  else if (0x140 ≤ o && o < 0x1C0) || (0x1000 ≤ o && o < 0x9000) then some (roG f (openDword s.free o))
  else if o = 0x200 then some (roG f (openDword s.free o % 4096))
  else none

/-! ### BAR0 (Table REG-27) -/

/-- The register at a BAR0 offset. -/
def State.reg (s : State) (f off : Nat) : Option RegView :=
  let o := off % 0x10000
  match off / 0x10000 with
  | 0x00 => s.glbReg f o
  | 0x01 => s.aonReg f o
  | 0x02 => if o < 0x4000 then s.hopReg f (o / 0x40) (o % 0x40) else none
  | 0x20 => s.cacheReg f o
  | 0x21 => s.engineReg f o
  | 0x22 => s.ctxReg f o
  | 0x23 => s.sluiceReg f o
  | 0x24 => s.herdReg f o
  | 0x25 => s.pwrReg f o
  | 0x26 => s.secReg f o
  | 0x27 => s.errReg f o
  | 0x28 => s.dbgReg f o
  | _ => none

/-- The register that the dword at `off` belongs to, and whether it is its high dword. -/
def State.regAt (s : State) (f off : Nat) : Option (RegView × Bool) :=
  if off % 4 != 0 then none
  else
    match if off % 8 = 4 then (s.reg f (off - 4)).filter (·.wide) else none with
    | some r => some (r, true)
    | none => (s.reg f off).map fun r => (r, false)

end Sys2Proof.Machine
end

