-- ==== Sys2Proof/Machine/Regs.lean ====
section
/-!
DEFINITION. Accesses of the host through BAR0 and BAR2 (14 R375 to R380; 08 R195; 13 R358, R372; 09 R253).
-/
namespace Sys2Proof.Machine

/-! ### BAR0 (R375, R376) -/

/-- A dword that reaches a register: scope, access code, the halves of a 64-bit register. -/
def State.writeDword (s : State) (f off v : Nat) : State :=
  match s.regAt f off with
  | none => s
  | some (r, hi) =>
    if !r.wr then s.accessDropped off f
    else
      match r.set with
      | none => s
      | some g =>
        if !r.wide then g v s
        else if !hi then
          s.modGlb fun x => { x with lowWrites := (x.lowWrites.filter fun y => !(y.1 = f && y.2.1 = off)) ++ [(f, off, BitVec.ofNat 32 v)] }
        else
          let held := s.glb.lowWrites.find? fun y => y.1 = f && y.2.1 = off - 4
          let low := match held with | some (_, _, w) => w.toNat | none => r.val % 2 ^ 32
          g (low + v * 2 ^ 32) (s.modGlb fun x => { x with lowWrites := x.lowWrites.filter fun y => !(y.1 = f && y.2.1 = off - 4) })

/-- Doorbell pages (03 R51). -/
def State.writeDoorbell (s : State) (f off v : Nat) : State :=
  let h := (off - 0x100000) / 0x1000
  match off % 0x1000 with
  | 0 => doorbellTail f h (BitVec.ofNat 32 v) s
  | 4 => doorbellHead f h (BitVec.ofNat 32 v) s
  | _ => s

def isDoorbell (off : Nat) : Bool := 0x100000 ≤ off && off < 0x200000

/-- A write of function f to BAR0: one dword, or 8 aligned bytes. -/
def State.writeBar0 (s : State) (f off : Nat) (wide whole : Bool) (v : Nat) : State :=
  if !s.funcUp f then s
  else if isDoorbell off then (if wide || !whole then s else s.writeDoorbell f off v)
  else if !whole then s.regIgnored off v
  else if wide then
    if off % 8 != 0 then s
    else
      let low := s.writeDword f off (v % 2 ^ 32)
      -- a 64-bit register its function does not reach is one register, and one entry
      match s.regAt f off with
      | some (r, _) => if !r.wr && r.wide then low else low.writeDword f (off + 4) (v / 2 ^ 32 % 2 ^ 32)
      | none => low.writeDword f (off + 4) (v / 2 ^ 32 % 2 ^ 32)
  else s.writeDword f off (v % 2 ^ 32)

def execRegisterWrite (f off : Nat) (wide wholeDwords : Bool) (v : BitVec 64) (s : State) : Host.Outcome State Fault Refusal :=
  noted (f < 16 && off < 2 ^ 24) (s.writeBar0 f off wide wholeDwords v.toNat)

/-- The dword at an offset as function f reads it now. -/
def State.dwordNow (s : State) (f off : Nat) : Nat :=
  match s.regAt f off with
  | none => 0
  | some (r, hi) =>
    let v := if r.rd then r.val else 0
    if hi then v / 2 ^ 32 % 2 ^ 32 else v % 2 ^ 32

/-- An aligned read of 8 bytes: both dwords at one instant. -/
def State.readWide (s : State) (f off : Nat) : State :=
  if !s.funcUp f then s
  else if off % 8 != 0 then s.emit (.regRead f 0)
  else
    let v := s.dwordNow f off + s.dwordNow f (off + 4) * 2 ^ 32
    (s.modGlb fun x => { x with highReads := x.highReads.filter fun y => !(y.1 = f && y.2.1 = off + 4) }).draw.emit
      (.regRead f (BitVec.ofNat 64 v))

/-- A dword read: a low dword latches its high one, which the same function's next read of it returns. -/
def State.readDword (s : State) (f off : Nat) : State :=
  if !s.funcUp f then s
  else
    let latched := s.glb.highReads.find? fun y => y.1 = f && y.2.1 = off
    match latched with
    | some (_, _, w) =>
      (s.modGlb fun x => { x with highReads := x.highReads.filter fun y => !(y.1 = f && y.2.1 = off) }).emit
        (.regRead f (BitVec.ofNat 64 w.toNat))
    | none =>
      match s.regAt f off with
      | none => s.emit (.regRead f 0)
      | some (r, hi) =>
        let v := if r.rd then r.val else 0
        let word := s.dwordNow f off
        let s := if r.wide && !hi then
            s.modGlb fun x => { x with highReads := (x.highReads.filter fun y => !(y.1 = f && y.2.1 = off + 4)) ++
              [(f, off + 4, BitVec.ofNat 32 (v / 2 ^ 32))] }
          else s
        s.draw.emit (.regRead f (BitVec.ofNat 64 word))

/-- A read of BAR0: a dword, or 8 aligned bytes, which drop a latched dword (log 125). -/
def execLowDwordRead (f : Nat) (at_ : BarRead) (s : State) : Host.Outcome State Fault Refusal :=
  match at_ with
  | .dword off => bounded (f < 16 && off < 2 ^ 24) (s.readDword f off)
  | .wide off => bounded (f < 16 && off < 2 ^ 24) (s.readWide f off)

/-! ### Registers with a command of their own -/

/-- GLB_LOCK (R378). -/
def execGlbLockSet (f : Nat) (v : BitVec 32) (s : State) : Host.Outcome State Fault Refusal :=
  bounded (f < 16) (s.writeBar0 f 0x10 false true v.toNat)

/-- GRANULE_OWN (08 R189, R191; R386). -/
def execGranuleOwnWrite (f dword : Nat) (v : BitVec 32) (s : State) : Host.Outcome State Fault Refusal :=
  bounded (f < 16 && dword < 12) (s.writeBar0 f (cacheBase + 4 * dword) false true v.toNat)

/-- PRESSURE_LIMIT_p (08 R215). -/
def execPressureLimitWrite (f p : Nat) (v : BitVec 32) (s : State) : Host.Outcome State Fault Refusal :=
  bounded (f < 16 && p < 8) (s.writeBar0 f (cacheBase + 0x80 + 4 * p) false true v.toNat)

/-- CTX_PEAK_e (R388). -/
def execCtxPeakWrite (f e : Nat) (v : BitVec 32) (s : State) : Host.Outcome State Fault Refusal :=
  bounded (f < 16 && e < 8) (s.writeBar0 f (ctxBase + 4 + 8 * e) false true v.toNat)

/-- ERR_CLEAR bit 0 (R396). -/
def execErrClear (f : Nat) (s : State) : Host.Outcome State Fault Refusal :=
  bounded (f < 16) (s.pfOnly f (errBase + 0x2010) State.errClear)

/-- ERR_CLEAR bit 1 (R396, 13 R373). -/
def execFatalClear (f : Nat) (s : State) : Host.Outcome State Fault Refusal :=
  bounded (f < 16) (s.pfOnly f (errBase + 0x2010) State.fatalClear)

/-- RETRAIN_p of HERD_CTRL (R391). -/
def execRetrain (f p : Nat) (s : State) : Host.Outcome State Fault Refusal :=
  bounded (f < 16 && p < 4) (s.pfOnly f (herdBase + 0x10) fun s => s.retrainPort p)

/-! ### BAR2 (08 R195, 12 R349, 13 R358, R372) -/

/-- Device address of BAR2 offset x of function f. -/
def State.bar2Addr (s : State) (f x : Nat) : Nat :=
  if s.mode = .fallow then fallowBase + x else s.glb.bar2Xlat.getD f 0 * 2 ^ 30 + x

/-- The unaddressable half of the parameter region's backing. -/
def State.upperHalf (s : State) (a : Nat) : Bool :=
  s.regions.paramSize != 0 && s.regions.paramBase + s.regions.paramSize ≤ a && a < s.regions.paramBase + 2 * s.regions.paramSize

/-- Function f reaches address a through BAR2. -/
def State.bar2Reach (s : State) (f : Nat) (write : Bool) (a : Nat) : Bool :=
  if s.mode = .fallow then f = 0 && fallowBase ≤ a && a < fallowBase + fallowSize
  else if a ≥ hbmSize || s.upperHalf a then false
  else if (s.firstDenied (s.funcPart f) a 1).isSome then false
  else if f = 0 then true
  else match s.funcPart f with
    | some p => s.reach p write a
    | none => false

/-- One piece of a read that lies in one sector: bytes, poison. Function f reads for its partition (08 R216). -/
def State.bar2Piece (s : State) (f a n : Nat) : List (BitVec 8) × Bool × State :=
  if !s.bar2Reach f false a then (List.replicate n 0xFF, false, s)
  else if s.mode = .fallow then (readCells 0 s.fallow (a - fallowBase) n, false, s)
  else
    match s.reserveByte a with
    | some _ => ((List.range n).map fun i => (s.reserveByte (a + i)).getD 0, false, s)
    | none =>
      let (b, e, s) := s.readRange { bar := s.funcPart f, since := some s.mem.barMark } 2 a n
      (if e.isSome then (List.range n).map fun i => Config.openByte s.free (a + i) else b, e.isSome, s)

def State.bar2Bytes (s : State) (f : Nat) : Nat → Nat → Nat → List (BitVec 8) × Bool × State
  | 0, _, _ => ([], false, s)
  | fuel + 1, a, n =>
    if n = 0 then ([], false, s)
    else
      let k := min n (32 - a % 32)
      let (b, p, s) := s.bar2Piece f a k
      let (t, q, s) := s.bar2Bytes f fuel (a + k) (n - k)
      (b ++ t, p || q, s)

def bar2Read (f off len : Nat) (s : State) : State :=
  if !s.funcUp f then s
  else
    let (b, p, s) := s.bar2Bytes f (len / 32 + 2) (s.bar2Addr f off) len
    let s := s.modMem fun m => { m with barMark := m.fills }
    s.draw.emit (.bar2Data f b p)

def execBar2Read (f off len : Nat) (s : State) : Host.Outcome State Fault Refusal :=
  noted (f < 16 && off + len ≤ 2 ^ 36) (bar2Read f off len s)

/-- A write to the addressable part of the parameter region sets DIRTY (09 R253). -/
def State.bar2Dirty (s : State) (a : Nat) : State :=
  if s.inParams a then
    let p := (a - s.regions.paramBase) / 65536
    s.setPage p (s.pageState p ||| 0x8)
  else s

/-- A write into an overflow frame in use: the contexts whose records it holds have unspecified results (04 R428). -/
def State.spoilAt (s : State) (a : Nat) : State :=
  let hit (r : RecPage) : Bool := match r.at_ with
    | .frame f => s.frameAddr r.part f ≤ a && a < s.frameAddr r.part f + 65536
    | .resident _ => false
  (s.engines.flatMap fun g => g.pages.filter hit).foldl State.spoilPage s

/-- The pieces of a write; the lowest address dropped, for the log. -/
def State.bar2Store (s : State) (f : Nat) : Nat → Nat → List (BitVec 8) → Option Nat × State
  | 0, _, _ => (none, s)
  | fuel + 1, a, bs =>
    if bs = [] then (none, s)
    else
      let k := 32 - a % 32
      if !s.bar2Reach f true a then
        let (_, s) := s.bar2Store f fuel (a + k) (bs.drop k)
        (some a, s)
      else if s.mode = .fallow then
        ({ s with fallow := writeCells 0 s.fallow (a - fallowBase) (bs.take k) }).bar2Store f fuel (a + k) (bs.drop k)
      else
        let s := match (s.spoilAt a).writeSector {} (s.backing a / 32) (a % 32) (bs.take k) with
          | (true, t) => t.bar2Dirty a
          | (false, t) => t
        s.bar2Store f fuel (a + k) (bs.drop k)

def bar2Write (f off : Nat) (bytes : List (BitVec 8)) (poisoned : Bool) (s : State) : State :=
  if !s.funcUp f then s
  else if poisoned then s.emit (.aer f 0x10)
  else
    match s.bar2Store f (bytes.length / 32 + 2) (s.bar2Addr f off) bytes with
    | (some a, s) => s.accessDropped a f
    | (none, s) => s

def execBar2Write (f off : Nat) (bytes : List (BitVec 8)) (poisoned : Bool) (s : State) : Host.Outcome State Fault Refusal :=
  noted (f < 16 && off + bytes.length ≤ 2 ^ 36) (bar2Write f off bytes poisoned s)

end Sys2Proof.Machine
end

