-- ==== Sys2Proof/Machine/Power.lean ====
section
/-!
DEFINITION. Power states, clocks, sensors, supplies and the PCIe messages of start and DEEP (12 R327 to R339, R344; 15 R407,
R409, R415).
-/
namespace Sys2Proof.Machine

/-- The domains beside the AON island are powered and the device has started. -/
def State.started (s : State) : Bool := s.mode = .ready || s.mode = .fallow || s.mode = .debugOpen || s.mode = .halted

/-- The AON island is ready. -/
def State.aonUp (s : State) : Bool := s.mode != .off && s.mode != .aonWait

/-- Every power switch but the AON island's is open, until PERST_N cycles (R339, 15 R415). -/
def State.powerDown (s : State) : State :=
  { s.coldReset.failOut with mode := .dead, ports := List.replicate 4 { state := 0 } }

/-! ### PCIe configuration requests and PME_Turn_Off (R344, R335; 00 Table SCO-2) -/

/-- Retry status until READY or FALLOW; no answer while the link is down. -/
def configRequest (f : Nat) (item : CfgItem) (s : State) : State :=
  if s.mode = .hold then s.emit (.config f none)
  else if !s.funcUp f then s
  else
    match item with
    | .deviceId => s.emit (.config f (some (if f = 0 then 0x0880 else 0xFFFF)))
    | .revisionId => s.emit (.config f (some 0xB1))

def execConfigRequest (f : Nat) (item : CfgItem) (s : State) : Host.Outcome State Fault Refusal :=
  bounded (f < 16) (configRequest f item s)

/-- Steps 1 to 5 of Table PWR-5 under a standing grant, else the acknowledgement alone. -/
def pmeTurnOff (s : State) : State :=
  if !s.pcieUp then s
  else if !s.pwr.deepGrant then s.emit .pmeAck
  else
    let s := (s.walk (fun _ => true) true).drainWq fun _ => true
    let s := s.modMem fun m => { m with selfRefresh := [true, true, true, true] }
    ({ s with pwr := { s.pwr with pme := true } }).emit .pmeAck

def execPmeTurnOff (s : State) : Host.Outcome State Fault Refusal := noted true (pmeTurnOff s)

/-! ### IDLE and DOZE (R330 to R333) -/

def Engine.quiet (g : Engine) : Bool := g.run.isNone && g.susp.isNone

def idleDelay (e : Nat) (s : State) : State :=
  s.modEng e fun g => if g.quiet && g.power = .active then { g with power := .idle } else g

def execIdleDelayExpiry (e : Nat) (s : State) : Host.Outcome State Fault Refusal :=
  bounded (e < 8) (if s.started then idleDelay e s else s)

/-- A partition's hint of DOZE or DEEP is in force. -/
def Part.hinted (q : Part) : Bool := match q.hint with | some (grant, _) => grant ≥ 2 | none => false

/-- The condition of R332; automatic DOZE goes by the DOZE_DELAY in force when the half's idle period began (14 R392,
log 126). -/
def State.mayDoze (s : State) (h : Nat) : Bool :=
  (s.mode = .ready || s.mode = .debugOpen) && !s.dozes h &&
  ((List.range 8).all fun e => halfOf e != h || ((s.eng e).quiet && (s.eng e).power != .active)) &&
  ((s.pwr.idleHalf.getD h none).any (fun n => n != 0) || (List.range 8).all fun p => !(s.partHalves p).contains h || (s.part p).hinted)

def dozeEntry (h : Nat) (s : State) : State :=
  if s.mayDoze h then
    let t := s.setDoze h true
    { t with engines := t.engines.mapIdx fun e g => if halfOf e = h then { g with power := .doze } else g }
  else s

def execDozeEntry (h : Nat) (s : State) : Host.Outcome State Fault Refusal := bounded (h < 2) (dozeEntry h s)

/-- A segment is ready for an engine of half h. -/
def State.halfWanted (s : State) (h : Nat) : Bool :=
  (List.range 8).any fun e => halfOf e = h && !(s.eng e).fenced && s.pkts.any fun q =>
    s.enginePart e = some q.part && (s.segFor e q).isSome

/-- A half wakes for a segment (R332); for an opcode or a throttle change it wakes with them. -/
def dozeWake (h : Nat) (s : State) : State := if s.halfWanted h then s.wakeHalf h else s

def execDozeWake (h : Nat) (s : State) : Host.Outcome State Fault Refusal := bounded (h < 2) (dozeWake h s)

/-- Self-refresh of a stack of a dozing half (R333). -/
def selfRefreshEntry (k : Nat) (s : State) : State :=
  if s.started && s.dozes (k / 2) then s.modMem fun m => { m with selfRefresh := m.selfRefresh.set k true } else s

def execSelfRefreshEntry (k : Nat) (s : State) : Host.Outcome State Fault Refusal := bounded (k < 4) (selfRefreshEntry k s)

/-! ### Sensors, throttling, thermal trip (R338, R339, R347; 15 R407) -/

/-- The governing reading, in 1/8 °C: a stack at 95 °C or more counts as a junction at 105 °C. -/
def governing (die stack : Int) : Int := if stack ≥ 760 then max die 840 else die

/-- THERMAL_TRIP: THERM_TRIP_N and the power switches; within 10 s of READY it is a failed start (R347, log 67), later the
device stays down until PERST_N cycles. In a reset, or while the device is down already, the signal is all there is to do. -/
def State.thermalTrip (s : State) : State :=
  let early := s.mode = .ready && s.aon.within10s
  let s : State := ({ s with pwr := { s.pwr with trip := true } } : State).failOut.alert 1
  if early then s.failedStart 6 s.hotDetail s.badEngines
  else if s.started || s.mode = .hold then s.powerDown
  else s

/-- SENSOR_SAMPLE: the hottest reading and the power estimate in force. The reading trips as it reaches 115 °C. -/
def sensorSample (die stack : Int) (watts8 : Nat) (s : State) : State :=
  if !s.aonUp || s.mode = .deep then s
  else
    let g := governing die stack
    let was := s.pwr.tempMax
    let hot := g ≥ 840 && !s.hotCause
    let s : State := { s with pwr := { s.pwr with tempMax := g, power := watts8 } }
    let s := if hot then s.alert 0 else s
    if g ≥ 920 && (was < 920 || !s.pwr.trip) then s.thermalTrip
    else if s.mode = .inReset && g ≤ 800 then { s with pwr := { s.pwr with trip := false } }
    else s

def execSensorSample (die stack : Int) (watts8 : Nat) (s : State) : Host.Outcome State Fault Refusal :=
  noted true (sensorSample die stack watts8 s)

/-- The engine clocks go to n sixteenths; steps down are counted (14 THROTTLE_CNT); a change wakes a dozing half (R332). -/
def State.clockTo (s : State) (n : Nat) : State :=
  (if n = s.pwr.sixteenths then s else s.wakeFor 0xFF).modPwr fun p =>
    { p with sixteenths := n, throttleCnt := p.throttleCnt + BitVec.ofNat 32 (p.sixteenths - n) }

/-- A cause of throttling holds. -/
def State.throttles (s : State) : Bool := s.hotCause || s.pins.prochot || s.powerCause

/-- The clocks may rise: 103 °C or less, PROCHOT_N clear, power at least 5 % below the limit. -/
def State.mayRise (s : State) : Bool :=
  s.pwr.tempMax ≤ 824 && !s.pins.prochot && s.pwr.power * 100 ≤ s.pwr.limit * 8 * 95

/-- The voltage code that a clock of n sixteenths needs at the junction temperature in force (15 R409; free value, log 54). -/
def State.vidNeed (s : State) (n : Nat) : Nat := (Config.vidNeed n s.pwr.tempMax).val

/-- The voltage code moves by one step towards v. -/
def State.vidToward (s : State) (v : Nat) : State :=
  s.modPwr fun p => { p with vid := if p.vid < v then p.vid + 1 else if v < p.vid then p.vid - 1 else p.vid }

/-- THROTTLE_STEP (R338, 15 R409): the clock goes down at once and the code after it; the clock goes up once the code it needs
stands, which rises a step before it. -/
def throttleStep (s : State) : State :=
  if !s.started then s
  else
    let n := s.pwr.sixteenths
    let up := min 16 (n + 1)
    if s.throttles then
      let t := s.clockTo (max 4 (n - 1))
      t.vidToward (t.vidNeed t.pwr.sixteenths)
    else if s.mayRise && n < 16 then
      if s.pwr.vid ≥ s.vidNeed up then s.clockTo up else s.vidToward (s.vidNeed up)
    else s.vidToward (s.vidNeed n)

def execThrottleStep (s : State) : Host.Outcome State Fault Refusal := bounded true (throttleStep s)

/-- PROCHOT_N low: the clocks go to 4/16. -/
def prochotAssert (s : State) : State :=
  let s : State := { s with pins := { s.pins with prochot := true } }
  if s.started then s.clockTo 4 else s

def execProchotAssert (s : State) : Host.Outcome State Fault Refusal := bounded true (prochotAssert s)
def execProchotDeassert (s : State) : Host.Outcome State Fault Refusal :=
  bounded true { s with pins := { s.pins with prochot := false } }

/-! ### Supplies and the AON island (R327, R328, R351; 15 R401, R409, R415) -/

/-- A supply fault while PERST_N is deasserted: no failed start. -/
def execSupplyFault (s : State) : Host.Outcome State Fault Refusal :=
  noted true (if s.started || s.mode = .hold || s.mode = .dead then
    let t := s.powerDown
    { t with pwr := { t.pwr with supplyFault := true } }
  else s)

/-- VDD_AON below 0.70 V: OFF. What is left is what needs no supply: the flash part, the fuses, the levels the outside drives
on pins. -/
def vddAonLoss (s : State) : State :=
  { State.reset with
    pending := s.pending
    mode := .off
    glb := { grade14 := s.glb.grade14 }
    host := s.host
    sec := { fuses := s.sec.fuses, inForce := s.sec.fuses }
    aon := { within10s := false, training := none }
    pwr := { limit := s.glb.tdp, vid := 4 }
    flash := { cells := s.flash.cells }
    pins := { failIn := s.pins.failIn, prochot := s.pins.prochot }
    ports := List.replicate 4 { state := 0 }
    out := s.out
    free := s.free }

def execVddAonLoss (s : State) : Host.Outcome State Fault Refusal := noted true (vddAonLoss s)

/-- VDD_AON rises: every retention item reads 0 (OFF left none) until the island is ready. -/
def execVddAonPowerUp (s : State) : Host.Outcome State Fault Refusal :=
  noted true (if s.mode = .off then { s with mode := .aonWait } else s)

/-- The island is ready: the SMBus address is latched, code 4 is driven, a PERST_N deassertion that came before is acted on. -/
def aonReady (straps : BitVec 2) (env : Option StartEnv) (s : State) : State :=
  if s.mode != .aonWait then s
  else
    let t : State := { s.failOut with
      mode := .inReset
      aon := { s.aon with perstPending := false, smbAddr := 0x5C + BitVec.ofNat 8 straps.toNat }
      pwr := { s.pwr with vid := 4 } }
    match s.aon.perstPending, env with
    | true, some e => t.coldStart e
    | true, none => s
    | false, _ => t

def execAonReady (straps : BitVec 2) (env : Option StartEnv) (s : State) : Host.Outcome State Fault Refusal :=
  noted true (aonReady straps env s)

/-- The crystal stops: the FLL free-runs. -/
def execAonXtalFail (s : State) : Host.Outcome State Fault Refusal :=
  bounded true (if s.mode = .off then s else ({ s with aon := { s.aon with xtalFail := true } }).alert 4)

/-! ### Loss of lock (When it goes wrong of R329; 13 R370, Table SEC-9) -/

/-- Ports that are UP retrain. -/
def State.retrainAll (s : State) : State :=
  if !s.gynUp then s
  else (List.range 4).foldl (fun s p => if portUp (s.port p) then s.retrain p (s.port p).next 0 else s) s

def pllLoss (i : Nat) (s : State) : State :=
  if !s.started then s
  else if i < 2 then
    if s.dozes i then s
    else
      let s := s.logEntry { cause := 0x28, cls := 4, a := BitVec.ofNat 64 i }
      (List.range 4).foldl (fun s k => s.fenceEngine (4 * i + k) 5) s
  else
    let s := s.fatal { cause := 0x28, a := BitVec.ofNat 64 i }
    if s.mode != .halted then s
    else if i = 7 then s.retrainAll
    else if i = 8 then s.withoutPll 8
    else s

def execPllLoss (i : Nat) (s : State) : Host.Outcome State Fault Refusal :=
  noted (i < 9) (if s.aonUp then s.judgeTwin (pllLoss i s) else s)

/-! ### Telemetry (R352, 11 R318) -/

/-- Samples the AON retention SRAM keeps at most: 2,048 bytes, no layout given (log 80). -/
def maxSamples : Nat := 256

/-- The power estimate as SMBus shows it: 0 in DEEP (Table PWR-11). -/
def State.powerNow (s : State) : Nat := if s.mode = .deep then 0 else s.pwr.power % 65536

def telemetrySample (s : State) : State :=
  if !s.aonUp then s
  else { s with aon := { s.aon with samples := ((s.pwr.tempMax, s.powerNow) :: s.aon.samples).take maxSamples } }

def execTelemetrySample (s : State) : Host.Outcome State Fault Refusal := bounded true (telemetrySample s)

end Sys2Proof.Machine
end

