-- ==== Sys2Proof/Machine/Smb.lean ====
section
/-!
DEFINITION. The SMBus target of the AON island (12 R351, R352, Table PWR-11).
-/
namespace Sys2Proof.Machine

/-- What the command code of an SMBus transfer does: the island answers in every state except OFF, once it is ready. -/
def State.smb (s : State) (f : State → State) : Host.Outcome State Fault Refusal := noted true (if s.aonUp then f s else s)

/-- A read of n data bytes. -/
def State.smbGive (s : State) (n v : Nat) : State := s.emit (.smb (leBytes n v))

/-- A transfer that is no read withdraws a DEEP grant (R334); one outside the register's range is acknowledged and ignored. -/
def State.smbPut (s : State) (ok : Bool) (f : State → State) : State := if ok then f s.withdraw else s.withdraw

/-- A register shared with BAR0 (14 R382): a value outside its legal range leaves it and is logged as the BAR0 write would be,
while ERRLOG is powered (00 R12, log 57). -/
def State.smbShared (s : State) (off : Nat) (ok : Nat → Bool) (g : Nat → State → State) (v : Nat) : State :=
  let s := s.withdraw
  if ok v then g v s else if s.started then s.regIgnored off v else s.countOnly 2

/-- The word of STATUS. -/
def State.smbStatus (s : State) : Nat :=
  s.stateCode + 8 * b2n (s.mode = .ready) + 16 * b2n s.pwr.twinAbsent + 32 * b2n s.verdictLost +
    64 * b2n (s.pwr.sixteenths < 16) + 128 * b2n s.pwr.trip

def execSmbStatus (s : State) : Host.Outcome State Fault Refusal := s.smb fun s => s.smbGive 2 s.smbStatus
def execSmbFallowReason (s : State) : Host.Outcome State Fault Refusal := s.smb fun s => s.smbGive 1 s.aon.reason
def execSmbBootAttempts (s : State) : Host.Outcome State Fault Refusal := s.smb fun s => s.smbGive 1 s.aon.attempts
def execSmbTemp (s : State) : Host.Outcome State Fault Refusal := s.smb fun s => s.smbGive 2 (s.pwr.tempMax % 65536).toNat
def execSmbPower (s : State) : Host.Outcome State Fault Refusal := s.smb fun s => s.smbGive 2 s.powerNow
def execSmbFallowDetail (s : State) : Host.Outcome State Fault Refusal := s.smb fun s => s.smbGive 4 s.aon.detail.toNat

/-- IDENT: serial, revision, grade, firmware version, 0. -/
def State.ident (s : State) : List (BitVec 8) :=
  leBytes 8 Config.serial.toNat ++ [0xB1, if s.glb.grade14 then 0x0E else 0x0C] ++ leBytes 4 s.image.fw.toNat ++ [0, 0]

def execSmbIdent (s : State) : Host.Outcome State Fault Refusal := s.smb fun s => s.emit (.smb s.ident)

def execSmbTelemetryPeriod (w : Option (BitVec 16)) (s : State) : Host.Outcome State Fault Refusal :=
  s.smb fun s =>
    match w with
    | none => s.smbGive 2 s.aon.period
    | some v => s.smbShared (aonBase + 0xC) (fun v => 1 ≤ v && v ≤ 60000) (fun v s => s.setPeriod v) v.toNat

/-- WAKE: in DEEP, PCIE_WAKE_N goes low. -/
def execSmbWake (s : State) : Host.Outcome State Fault Refusal :=
  s.smb fun s => s.smbPut (s.mode = .deep) fun s => { s with pins := { s.pins with wakeN := false } }

def execSmbClearAttempts (s : State) : Host.Outcome State Fault Refusal :=
  s.smb fun s => s.smbPut (s.mode = .fallow) fun s => { s with aon := { s.aon with attempts := 0 } }

/-- RESTART: as FALLOW_EXIT without CLEAR_ATTEMPTS. -/
def execSmbRestart (env : StartEnv) (s : State) : Host.Outcome State Fault Refusal :=
  s.smb fun s => s.smbPut (s.mode = .fallow) fun s => s.coldStart env

def execSmbPwrLimit (w : Option (BitVec 16)) (s : State) : Host.Outcome State Fault Refusal :=
  s.smb fun s =>
    match w with
    | none => s.smbGive 2 s.pwr.limit
    | some v => s.smbShared (pwrBase + 0xC) s.limitOk (fun v s => s.modPwr fun p => { p with limit := v }) v.toNat

/-- ALERT_STATUS: a write clears the bits written as 1. -/
def execSmbAlertStatus (w : Option (BitVec 8)) (s : State) : Host.Outcome State Fault Refusal :=
  s.smb fun s =>
    match w with
    | none => s.smbGive 1 s.aon.alert.toNat
    | some v => s.smbPut true fun s => s.modAon fun a => { a with alert := a.alert &&& ~~~(v &&& 0x3F) }

def execSmbAlertMask (w : Option (BitVec 8)) (s : State) : Host.Outcome State Fault Refusal :=
  s.smb fun s =>
    match w with
    | none => s.smbGive 1 s.aon.alertMask.toNat
    | some v => s.smbPut true fun s => s.modAon fun a => { a with alertMask := v &&& 0x3F }

/-- SMB_ALERT_N is asserted (R352). -/
def State.smbAlert (s : State) : Bool := s.aon.alert &&& s.aon.alertMask != 0

/-- The Alert Response Address: a device that holds SMB_ALERT_N answers with its own address, in bits [7:1] of the byte. -/
def execSmbAlertResponse (s : State) : Host.Outcome State Fault Refusal :=
  s.smb fun s => if s.smbAlert then s.smbGive 1 (2 * s.aon.smbAddr.toNat) else s

/-- The target releases the bus: no transfer is in progress between commands. -/
def execSmbClkLowTimeout (s : State) : Host.Outcome State Fault Refusal := s.smb fun s => s

/-- A wrong PEC or protocol, or an unknown code, is not acknowledged at its data byte and changes nothing. -/
def execSmbUnknownCommand (_code : BitVec 8) (s : State) : Host.Outcome State Fault Refusal :=
  s.smb fun s => s.emit .smbNak

end Sys2Proof.Machine
end

