-- ==== Sys2Proof/Machine/Tap.lean ====
section
/-!
DEFINITION. The test access port (15 R419, R420; 13 R363, R364, R367). The order of the boundary cells and the private scan
chains have no layout in the manual: what they shift out is free (log 15).
-/
namespace Sys2Proof.Machine

/-- A TAP instruction; the port works in every state except OFF. -/
def State.tapDo (s : State) (ir : Nat) (f : State → State) : Host.Outcome State Fault Refusal :=
  noted true (if s.mode = .off then s
    else f { s with tap := { s.tap with ir := ir, drives := ir = 0 || ir = 4, highz := ir = 5 } })

/-- n bytes without a layout, shifted out. -/
def State.tapOpen (s : State) (n : Nat) : State :=
  s.draw.emit (.tap ((List.range n).map fun i => Config.openByte s.free i))

/-- EXTEST drives the pins from the boundary register and samples them. -/
def execExtest (s : State) : Host.Outcome State Fault Refusal := s.tapDo 0x00 fun s => s.tapOpen 4
def execIdcode (s : State) : Host.Outcome State Fault Refusal := s.tapDo 0x01 fun s => s.emit (.tap (leBytes 4 0xB088054B))
def execSamplePreload (preload : BitVec 32) (s : State) : Host.Outcome State Fault Refusal :=
  s.tapDo 0x02 fun s => { s.tapOpen 4 with tap := { s.tap with boundary := preload } }
def execClamp (s : State) : Host.Outcome State Fault Refusal := s.tapDo 0x04 fun s => s
def execHighz (s : State) : Host.Outcome State Fault Refusal := s.tapDo 0x05 fun s => s

/-- DBG_REQUEST: Update-DR with 1 requests Debug Open on the TAP path. -/
def execDbgRequest (bit : Bool) (s : State) : Host.Outcome State Fault Refusal :=
  s.tapDo 0x40 fun s => if bit then s.dbgRequestOn true else s

def execDbgChallenge (s : State) : Host.Outcome State Fault Refusal := s.tapDo 0x41 fun s => s.emit (.tap s.challenge)

/-- DBG_RESPONSE: Update-DR submits the 1,536 bits. -/
def execDbgResponse (bytes : List (BitVec 8)) (s : State) : Host.Outcome State Fault Refusal :=
  if bytes.length = 192 then
    s.tapDo 0x42 fun s => if s.sec.dbg = 1 then (s.modSec fun x => { x with response := bytes }).dbgSubmitNow else s
  else .fault .noSuchInstance

def execDbgStatus (s : State) : Host.Outcome State Fault Refusal := s.tapDo 0x43 fun s => s.emit (.tap (leBytes 1 s.dbgWord))

/-- DBG_SCAN: private chains in DEBUG_OPEN, else BYPASS. -/
def execDbgScan (bits : Nat) (s : State) : Host.Outcome State Fault Refusal :=
  s.tapDo 0x48 fun s => if s.mode = .debugOpen then s.tapOpen ((bits + 7) / 8) else s

def execBypass (s : State) : Host.Outcome State Fault Refusal := s.tapDo 0xFF fun s => s

/-- Test-Logic-Reset selects IDCODE; the pins go back to the device. -/
def execTapReset (s : State) : Host.Outcome State Fault Refusal := s.tapDo 0x01 fun s => s

end Sys2Proof.Machine
end

