-- ==== Sys2Proof/Machine/Errors.lean ====
section
/-!
DEFINITION. Errors of the on-die arrays (13 R368 to R371, Tables SEC-6 and SEC-9).
-/
namespace Sys2Proof.Machine

def arrayIndex : EngineArray → Nat
  | .scratchpad => 0
  | .banks => 1
  | .contextStore => 2
  | .tables => 3
  | .exceptionRom => 4

/-- CAUSE of ENGINE_STATUS (14 Table REG-16). -/
def arrayCause : EngineArray → Nat
  | .tables | .exceptionRom => 4
  | _ => 3

/-- ENGINE_UE: logged, then the engine fences (R369). -/
def engineUe (e off : Nat) (array : EngineArray) (s : State) : State :=
  if !s.started then s
  else
    (s.logEntry { cause := 0x12, cls := 4, part := s.enginePart e, unit := e, a := BitVec.ofNat 64 off,
                  b := Config.arrayCode (arrayIndex array) }).fenceEngine e (arrayCause array)

def execEngineUe (e off : Nat) (array : EngineArray) (s : State) : Host.Outcome State Fault Refusal :=
  noted (e < 8) (engineUe e off array s)

/-- Units of FATAL_SRAM: L2 West, L2 East, Control Island. -/
def fatalUnit (unit : Nat) : Bool := unit = 0x10 || unit = 0x11 || unit = 0x40

def execFatalSram (unit off : Nat) (s : State) : Host.Outcome State Fault Refusal :=
  noted (fatalUnit unit)
    (if s.started then s.fatal { cause := 0x17, unit := unit, a := BitVec.ofNat 64 off, b := BitVec.ofNat 64 unit } else s)

/-- Units with SECDED arrays: engines, L2 halves, Control Island, AON. -/
def secdedUnit (unit : Nat) : Bool := unit < 8 || fatalUnit unit || unit = 0x48

/-- SRAM_CE: the word is corrected and written back; logged while the ERRLOG block is powered. An error of the AON island counts
in its summary in every state (log 92). -/
def execSramCe (unit off : Nat) (s : State) : Host.Outcome State Fault Refusal :=
  bounded (secdedUnit unit)
    (if s.started then
      s.logEntry { cause := 0x10, cls := 0, part := if unit < 8 then s.enginePart unit else none, unit := unit,
                   a := BitVec.ofNat 64 off, b := Config.syndrome unit off }
    else if s.aonUp && unit = 0x48 then s.countOnly 0
    else s)

/-- L2 half that holds a location. -/
def l2Unit (loc : Nat) : Nat := 0x10 + loc / (2 * stackSize)

/-- The owner of a granule as a log entry names it. -/
def partOf (n : Nat) : Option Nat := if n < 8 then some n else none

/-- The L2 sector that holds device address a. -/
def State.l2Sector (s : State) (a : Nat) : Option L2Sec :=
  (s.findLine (s.locOf a / 128)).map fun l => l.secs.getD (s.locOf a / 32 % 4) {}

def State.modSector (s : State) (a : Nat) (f : L2Sec → L2Sec) : State :=
  s.modLine (s.locOf a / 128) fun l => { l with secs := l.secs.modify (s.locOf a / 32 % 4) f }

/-- Sector i of a line as L2 can give it again. -/
def State.l2Again (s : State) (line i : Nat) : Option Sector :=
  match s.findLine line with
  | some l => let x := l.secs.getD i {}; if x.valid && !x.poison then some x.data else none
  | none => none

/-- An L1's copy of the sector, or of its whole line, is taken again from L2; where L2 does not hold it the sector stays
invalid. -/
def State.refetchL1 (s : State) (e a : Nat) (whole : Bool) : State :=
  let line := s.locOf a / 128
  let renew (i : Nat) (x : Option Sector) : Option Sector :=
    if whole || i = s.locOf a / 32 % 4 then x.bind fun _ => s.l2Again line i else x
  s.modEng e fun g => { g with l1 := g.l1.map fun l => if l.line = line then { l with secs := l.secs.mapIdx renew } else l }

/-- CACHE_REFETCH of an L1 sector, of an L1 line whose tag failed, or of a clean L2 sector. -/
def cacheRefetch (unit : CacheUnit) (a : Nat) (s : State) : State :=
  if !s.started then s
  else
    match unit with
    | .l1 e tags =>
      if (s.eng e).l1.any fun l => l.line = s.locOf a / 128 then
        (s.refetchL1 e a tags).logEntry { cause := 0x11, cls := 0, part := s.enginePart e, unit := e, a := BitVec.ofNat 64 a }
      else s
    | .l2 =>
      match s.l2Sector a with
      | none => s
      | some x =>
        if !x.valid || x.dirty then s
        else
          let (d, poison) := s.dramRead (a / 32)
          (s.modSector a fun y => { y with data := d, poison := poison, filled := true }).logEntry
            { cause := 0x11, cls := 0, part := partOf (s.granuleOwner a), unit := l2Unit (s.locOf a), a := BitVec.ofNat 64 a }

def cacheUnitOk : CacheUnit → Bool
  | .l1 e _ => e < 8
  | .l2 => true

def execCacheRefetch (unit : CacheUnit) (addr : Nat) (s : State) : Host.Outcome State Fault Refusal :=
  bounded (cacheUnitOk unit && addr < hbmSize) (cacheRefetch unit addr s)

/-- L2_POISON of a dirty sector (08 R209). -/
def l2Poison (a : Nat) (s : State) : State :=
  match s.l2Sector a with
  | none => s
  | some x =>
    if !x.valid || !x.dirty || !s.started then s
    else (s.modSector a fun y => { y with poison := true }).logEntry
      { cause := 0x13, cls := 1, part := partOf (s.granuleOwner a), unit := l2Unit (s.locOf a), a := BitVec.ofNat 64 a }

def execL2Poison (addr : Nat) (s : State) : Host.Outcome State Fault Refusal := bounded (addr < hbmSize) (l2Poison addr s)

/-! ### AON retention (Table SEC-6, 12 Table PWR-1) -/

/-- The slot that the entry of an AON_UE names. -/
def aonSlot : AonItem → Nat
  | .keySlot n => n
  | _ => 0xFF

/-- A key slot hit is erased; the regions bound to it are disabled, their dirty data in L2 dropped. -/
def State.loseSlot (s : State) (n : Nat) : State :=
  let hit (r : Region) : Bool := r.enable && r.slot = n
  let s := (s.sec.regions.filter hit).foldl (fun s r => s.discard fun l => l.within r.base r.size) s
  s.modSec fun x => { x with
    slots := x.slots.modify n KeySlot.erased
    regions := x.regions.map fun r => if hit r then { r with enable := false } else r }

/-- Configuration cleared: what the island holds for DEEP; in any other state it is written again at the next DEEP entry. -/
def State.loseConfig (s : State) : State :=
  if s.mode != .deep then s
  else
    { s with
      parts := List.replicate 8 {}
      wins := List.replicate 16 { cls := 0 }
      regions := {}
      mem := { s.mem with owner := List.replicate 96 0 }
      sec := { s.sec with regions := List.replicate 16 {} } }

/-- The item reads 0, but for DEBUG_WAS_OPENED, which only VDD_AON clears (R373). -/
def State.clearItem (s : State) (item : AonItem) : State :=
  match item with
  | .startState => { s with aon := { s.aon with attempts := 0, reason := 0, detail := 0 } }
  | .image => { s with aon := { s.aon with bootSlot := false }, image := { s.image with digest := 0 } }
  | .hbmTraining => { s with aon := { s.aon with training := none } }
  | .keySlot n => s.loseSlot n
  | .config => s.loseConfig
  | .telemetry => { s with aon := { s.aon with samples := [], summary := [0, 0, 0, 0, 0, 0], firstFatal := {} } }

/-- AON_UE: the item reads 0 from then on; the summary counts the event in every state, ERRLOG while it is powered. -/
def aonUe (item : AonItem) (off : Nat) (s : State) : State :=
  if !s.aonUp then s
  else
    let s := s.clearItem item
    if s.started then
      s.logEntry { cause := 0x14, cls := 1, unit := 0x48, a := BitVec.ofNat 64 off, b := BitVec.ofNat 64 (aonSlot item) }
    else s.countOnly 1

def aonItemOk : AonItem → Bool
  | .keySlot n => n < 16
  | _ => true

def execAonUe (item : AonItem) (off : Nat) (s : State) : Host.Outcome State Fault Refusal := bounded (aonItemOk item) (aonUe item off s)

end Sys2Proof.Machine
end

