-- ==== Sys2Proof/Machine/Pins.lean ====
section
/-!
DEFINITION. MGT_GPIO_5: frame ticks of the PIN source and the herd-time 1PPS (11 R314, R317), and what the device's pins show
(15 R400).
-/
namespace Sys2Proof.Machine

/-- A rising edge: it ticks every partition whose source is PIN, in order, or is merged when it comes within 10 µs of the last
one accepted. While 1PPS holds the pin there is no input. -/
def gpio5Rise (tooSoon : Bool) (s : State) : State :=
  if !s.running || s.ppsHolds then s
  else if tooSoon then { s with glb := { s.glb with tickMerged := s.glb.tickMerged + 1 } }
  else ((List.range 8).filter fun p => (s.part p).tickPin).foldl State.frameTick s

def execMgtGpio5Rise (tooSoon : Bool) (s : State) : Host.Outcome State Fault Refusal := noted true (gpio5Rise tooSoon s)

/-- A whole second of herd time: the pulse; a member in DRIFT holds the pin low (10 R297). -/
def ppsSecond (s : State) : State :=
  if s.running && s.ppsHolds && !s.herd.drift then s.emit .pps else s

def execPpsSecond (s : State) : Host.Outcome State Fault Refusal := bounded true (ppsSecond s)

/-! ### Levels of the 1.8 V outputs (15 R400, R401, R419) -/

/-- What a pin of the device shows: a level it drives, or high impedance, where its pull or the board decides. -/
inductive Level where
  | low
  | high
  | z
  deriving DecidableEq, Repr

/-- The outputs and bidirectional pins of Table PKG-2 at 1.8 V. -/
inductive Pin where
  | wakeN
  | smbAlertN
  | spiClk
  | spiCsN
  | spiIo (i : Nat)
  | hbOut
  | failOut
  | thermTripN
  | vid (i : Nat)
  | gpio5
  | tdo
  deriving DecidableEq, Repr

def levelOf (b : Bool) : Level := if b then .high else .low

/-- An open-drain output. -/
def openDrain (asserted : Bool) : Level := if asserted then .low else .z

/-- Pins of the main domain are high impedance: in DEEP, while PERST_N is asserted, and without their supplies. -/
def State.mainOff (s : State) : Bool :=
  s.mode = .off || s.mode = .aonWait || s.mode = .inReset || s.mode = .deep || s.mode = .dead

/-- The level the device itself gives a pin. MGT_GPIO_5 is an output only while 1PPS holds it, low between pulses (11 R317); the
flash is selected while an operation runs, and its lines are idle between operations; TDO is shifted out within a command. -/
def State.driven (s : State) : Pin → Level
  | .wakeN => openDrain !s.pins.wakeN
  | .smbAlertN => openDrain s.smbAlert
  | .thermTripN => openDrain s.pwr.trip
  | .spiClk => if s.mainOff then .z else .low
  | .spiCsN => if s.mainOff then .z else levelOf !s.flash.busy
  | .spiIo _ => .z
  | .hbOut => levelOf s.pins.hbOut
  | .failOut => levelOf s.pins.failOut
  | .vid i => if s.mode = .aonWait then .z else levelOf (bit s.pwr.vid i)
  | .gpio5 => if !s.mainOff && s.ppsHolds then .low else .z
  | .tdo => .z

/-- The boundary cell of a pin. -/
def Pin.index : Pin → Nat
  | .wakeN => 0
  | .smbAlertN => 1
  | .spiClk => 2
  | .spiCsN => 3
  | .spiIo i => 4 + i % 4
  | .hbOut => 8
  | .failOut => 9
  | .thermTripN => 10
  | .vid i => 11 + i % 4
  | .gpio5 => 15
  | .tdo => 16

/-- What a pin shows: nothing in OFF; the boundary register under EXTEST and CLAMP, high impedance under HIGHZ, TDO apart
(logs 15, 127). -/
def State.pin (s : State) (p : Pin) : Level :=
  if s.mode = .off then .z
  else if p = .tdo then s.driven p
  else if s.tap.highz then .z
  else if s.tap.drives then levelOf (s.tap.boundary.getLsbD (Config.boundaryCell p.index).val)
  else s.driven p

end Sys2Proof.Machine
end

