-- ==== Sys2Proof/Machine/Dispatch.lean ====
section
/-! DEFINITION. exec: the effect of each command on everything but the queue. -/

namespace Sys2Proof.Machine

def exec (i : Instr) (s : State) : Host.Outcome State Fault Refusal :=
  match i with
  | .nop h => Sys2Proof.Machine.execNop h s
  | .fence h => Sys2Proof.Machine.execFence h s
  | .fencePoll h news => Sys2Proof.Machine.execFencePoll h news s
  | .epochFence h => Sys2Proof.Machine.execEpochFence h s
  | .timestamp h => Sys2Proof.Machine.execTimestamp h s
  | .frameTick h => Sys2Proof.Machine.execFrameTick h s
  | .sleepHint h => Sys2Proof.Machine.execSleepHint h s
  | .ctxOpen h => Sys2Proof.Machine.execCtxOpen h s
  | .ctxFeed h => Sys2Proof.Machine.execCtxFeed h s
  | .ctxClose h => Sys2Proof.Machine.execCtxClose h s
  | .ctxQuery h => Sys2Proof.Machine.execCtxQuery h s
  | .reduce h => Sys2Proof.Machine.execReduce h s
  | .sfnApply h => Sys2Proof.Machine.execSfnApply h s
  | .ewise h => Sys2Proof.Machine.execEwise h s
  | .softmax h => Sys2Proof.Machine.execSoftmax h s
  | .layernorm h => Sys2Proof.Machine.execLayernorm h s
  | .rmsnorm h => Sys2Proof.Machine.execRmsnorm h s
  | .softmaxBwd h => Sys2Proof.Machine.execSoftmaxBwd h s
  | .normBwd h => Sys2Proof.Machine.execNormBwd h s
  | .prefetch h => Sys2Proof.Machine.execPrefetch h s
  | .flushRange h => Sys2Proof.Machine.execFlushRange h s
  | .invalRange h => Sys2Proof.Machine.execInvalRange h s
  | .windowSet h => Sys2Proof.Machine.execWindowSet h s
  | .copy h => Sys2Proof.Machine.execCopy h s
  | .stashSave h => Sys2Proof.Machine.execStashSave h s
  | .stashLoad h => Sys2Proof.Machine.execStashLoad h s
  | .bucketReduce h => Sys2Proof.Machine.execBucketReduce h s
  | .shardGather h => Sys2Proof.Machine.execShardGather h s
  | .reduceScatter h => Sys2Proof.Machine.execReduceScatter h s
  | .updateStep h => Sys2Proof.Machine.execUpdateStep h s
  | .commitStep h => Sys2Proof.Machine.execCommitStep h s
  | .rollbackStep h => Sys2Proof.Machine.execRollbackStep h s
  | .checkpoint h => Sys2Proof.Machine.execCheckpoint h s
  | .restore h => Sys2Proof.Machine.execRestore h s
  | .replayArm h => Sys2Proof.Machine.execReplayArm h s
  | .replayRun h => Sys2Proof.Machine.execReplayRun h s
  | .herdForm h => Sys2Proof.Machine.execHerdForm h s
  | .herdLeave h => Sys2Proof.Machine.execHerdLeave h s
  | .herdTime h => Sys2Proof.Machine.execHerdTime h s
  | .engineFence h => Sys2Proof.Machine.execEngineFence h s
  | .engineUnfence h failing => Sys2Proof.Machine.execEngineUnfence h failing s
  | .srSeed h => Sys2Proof.Machine.execSrSeed h s
  | .fallowExit h => Sys2Proof.Machine.execFallowExit h s
  | .debugAccRead h => Sys2Proof.Machine.execDebugAccRead h s
  | .unlistedOpcode h => Sys2Proof.Machine.execUnlistedOpcode h s
  | .partitionMap h => Sys2Proof.Machine.execPartitionMap h s
  | .placement h => Sys2Proof.Machine.execPlacement h s
  | .stashRegion h => Sys2Proof.Machine.execStashRegion h s
  | .overflowRegion h => Sys2Proof.Machine.execOverflowRegion h s
  | .replayBuffer h => Sys2Proof.Machine.execReplayBuffer h s
  | .checkpointReserve h => Sys2Proof.Machine.execCheckpointReserve h s
  | .paramRegion h => Sys2Proof.Machine.execParamRegion h s
  | .tickSource h => Sys2Proof.Machine.execTickSource h s
  | .pressureDemote h => Sys2Proof.Machine.execPressureDemote h s
  | .protectedRegion h => Sys2Proof.Machine.execProtectedRegion h s
  | .doorbellTailWrite f h v => Sys2Proof.Machine.execDoorbellTailWrite f h v s
  | .doorbellCplHeadWrite f h v => Sys2Proof.Machine.execDoorbellCplHeadWrite f h v s
  | .hopCtrlWrite f h v => Sys2Proof.Machine.execHopCtrlWrite f h v s
  | .hopIrqWrite f h v => Sys2Proof.Machine.execHopIrqWrite f h v s
  | .packetFetch news => Sys2Proof.Machine.execPacketFetch news s
  | .segmentDispatch e => Sys2Proof.Machine.execSegmentDispatch e s
  | .tileComplete e c => Sys2Proof.Machine.execTileComplete e c s
  | .tailraceDrainDone e c => Sys2Proof.Machine.execTailraceDrainDone e c s
  | .segmentEnd e => Sys2Proof.Machine.execSegmentEnd e s
  | .carryNodeArrival e => Sys2Proof.Machine.execCarryNodeArrival e s
  | .pendingEntryFreed e => Sys2Proof.Machine.execPendingEntryFreed e s
  | .ctxSlotFreed e => Sys2Proof.Machine.execCtxSlotFreed e s
  | .ctxWaitLimitExpiry h => Sys2Proof.Machine.execCtxWaitLimitExpiry h s
  | .packetComplete h env => Sys2Proof.Machine.execPacketComplete h env s
  | .irqCoalesceTimeout h => Sys2Proof.Machine.execIrqCoalesceTimeout h s
  | .replayCountReached => Sys2Proof.Machine.execReplayCountReached s
  | .glbLockSet f v => Sys2Proof.Machine.execGlbLockSet f v s
  | .granuleOwnWrite f dword v => Sys2Proof.Machine.execGranuleOwnWrite f dword v s
  | .pressureLimitWrite f p v => Sys2Proof.Machine.execPressureLimitWrite f p v s
  | .ctxPeakWrite f e v => Sys2Proof.Machine.execCtxPeakWrite f e v s
  | .registerWrite f off wide wholeDwords v => Sys2Proof.Machine.execRegisterWrite f off wide wholeDwords v s
  | .lowDwordRead f at_ => Sys2Proof.Machine.execLowDwordRead f at_ s
  | .bar2Read f off len => Sys2Proof.Machine.execBar2Read f off len s
  | .bar2Write f off bytes poisoned => Sys2Proof.Machine.execBar2Write f off bytes poisoned s
  | .keyAssign f slot owner => Sys2Proof.Machine.execKeyAssign f slot owner s
  | .keyLoad f slot => Sys2Proof.Machine.execKeyLoad f slot s
  | .keyGenerate f slot => Sys2Proof.Machine.execKeyGenerate f slot s
  | .keyErase f slot => Sys2Proof.Machine.execKeyErase f slot s
  | .keyRelease f slot => Sys2Proof.Machine.execKeyRelease f slot s
  | .revokeKey f n => Sys2Proof.Machine.execRevokeKey f n s
  | .advanceRollback f => Sys2Proof.Machine.execAdvanceRollback f s
  | .disableDebug f => Sys2Proof.Machine.execDisableDebug f s
  | .fuseOpDone vppOk => Sys2Proof.Machine.execFuseOpDone vppOk s
  | .dbgReqRequest f => Sys2Proof.Machine.execDbgReqRequest f s
  | .dbgReqSubmit f => Sys2Proof.Machine.execDbgReqSubmit f s
  | .debugVerifyDone key sig => Sys2Proof.Machine.execDebugVerifyDone key sig s
  | .debugEraseDone nonZero => Sys2Proof.Machine.execDebugEraseDone nonZero s
  | .nonceExpiry => Sys2Proof.Machine.execNonceExpiry s
  | .errClear f => Sys2Proof.Machine.execErrClear f s
  | .fatalClear f => Sys2Proof.Machine.execFatalClear f s
  | .retrain f p => Sys2Proof.Machine.execRetrain f p s
  | .flashRead f => Sys2Proof.Machine.execFlashRead f s
  | .flashErase4k f => Sys2Proof.Machine.execFlashErase4k f s
  | .flashProgram f => Sys2Proof.Machine.execFlashProgram f s
  | .flashOpDone inTime => Sys2Proof.Machine.execFlashOpDone inTime s
  | .smbStatus => Sys2Proof.Machine.execSmbStatus s
  | .smbFallowReason => Sys2Proof.Machine.execSmbFallowReason s
  | .smbBootAttempts => Sys2Proof.Machine.execSmbBootAttempts s
  | .smbTemp => Sys2Proof.Machine.execSmbTemp s
  | .smbPower => Sys2Proof.Machine.execSmbPower s
  | .smbIdent => Sys2Proof.Machine.execSmbIdent s
  | .smbTelemetryPeriod w => Sys2Proof.Machine.execSmbTelemetryPeriod w s
  | .smbFallowDetail => Sys2Proof.Machine.execSmbFallowDetail s
  | .smbWake => Sys2Proof.Machine.execSmbWake s
  | .smbClearAttempts => Sys2Proof.Machine.execSmbClearAttempts s
  | .smbRestart env => Sys2Proof.Machine.execSmbRestart env s
  | .smbPwrLimit w => Sys2Proof.Machine.execSmbPwrLimit w s
  | .smbAlertStatus w => Sys2Proof.Machine.execSmbAlertStatus w s
  | .smbAlertMask w => Sys2Proof.Machine.execSmbAlertMask w s
  | .smbAlertResponse => Sys2Proof.Machine.execSmbAlertResponse s
  | .smbClkLowTimeout => Sys2Proof.Machine.execSmbClkLowTimeout s
  | .extest => Sys2Proof.Machine.execExtest s
  | .idcode => Sys2Proof.Machine.execIdcode s
  | .samplePreload preload => Sys2Proof.Machine.execSamplePreload preload s
  | .clamp => Sys2Proof.Machine.execClamp s
  | .highz => Sys2Proof.Machine.execHighz s
  | .dbgRequest bit => Sys2Proof.Machine.execDbgRequest bit s
  | .dbgChallenge => Sys2Proof.Machine.execDbgChallenge s
  | .dbgResponse bytes => Sys2Proof.Machine.execDbgResponse bytes s
  | .dbgStatus => Sys2Proof.Machine.execDbgStatus s
  | .dbgScan bits => Sys2Proof.Machine.execDbgScan bits s
  | .bypass => Sys2Proof.Machine.execBypass s
  | .tapReset => Sys2Proof.Machine.execTapReset s
  | .perstNAssert => Sys2Proof.Machine.execPerstNAssert s
  | .perstNDeassert env => Sys2Proof.Machine.execPerstNDeassert env s
  | .resetHoldExpiry env => Sys2Proof.Machine.execResetHoldExpiry env s
  | .bootAttemptsClear => Sys2Proof.Machine.execBootAttemptsClear s
  | .millerWatchdogExpiry why => Sys2Proof.Machine.execMillerWatchdogExpiry why s
  | .configRequest f item => Sys2Proof.Machine.execConfigRequest f item s
  | .pmeTurnOff => Sys2Proof.Machine.execPmeTurnOff s
  | .flrVf f => Sys2Proof.Machine.execFlrVf f s
  | .flrPf => Sys2Proof.Machine.execFlrPf s
  | .idleDelayExpiry e => Sys2Proof.Machine.execIdleDelayExpiry e s
  | .dozeEntry half => Sys2Proof.Machine.execDozeEntry half s
  | .dozeWake half => Sys2Proof.Machine.execDozeWake half s
  | .selfRefreshEntry k => Sys2Proof.Machine.execSelfRefreshEntry k s
  | .sensorSample die stack watts8 => Sys2Proof.Machine.execSensorSample die stack watts8 s
  | .throttleStep => Sys2Proof.Machine.execThrottleStep s
  | .prochotAssert => Sys2Proof.Machine.execProchotAssert s
  | .prochotDeassert => Sys2Proof.Machine.execProchotDeassert s
  | .supplyFault => Sys2Proof.Machine.execSupplyFault s
  | .vddAonLoss => Sys2Proof.Machine.execVddAonLoss s
  | .vddAonPowerUp => Sys2Proof.Machine.execVddAonPowerUp s
  | .aonReady straps env => Sys2Proof.Machine.execAonReady straps env s
  | .aonXtalFail => Sys2Proof.Machine.execAonXtalFail s
  | .pllLoss n => Sys2Proof.Machine.execPllLoss n s
  | .telemetrySample => Sys2Proof.Machine.execTelemetrySample s
  | .engineUe e off array => Sys2Proof.Machine.execEngineUe e off array s
  | .fatalSram unit off => Sys2Proof.Machine.execFatalSram unit off s
  | .cacheRefetch unit addr => Sys2Proof.Machine.execCacheRefetch unit addr s
  | .l2Poison addr => Sys2Proof.Machine.execL2Poison addr s
  | .aonUe item off => Sys2Proof.Machine.execAonUe item off s
  | .hbmReadReturn n ecc => Sys2Proof.Machine.execHbmReadReturn n ecc s
  | .hbmRefresh loc ecc => Sys2Proof.Machine.execHbmRefresh loc ecc s
  | .evictionNotice e => Sys2Proof.Machine.execEvictionNotice e s
  | .backInvalidateAnswer e => Sys2Proof.Machine.execBackInvalidateAnswer e s
  | .pressureWindowEnd p => Sys2Proof.Machine.execPressureWindowEnd p s
  | .pageOut e => Sys2Proof.Machine.execPageOut e s
  | .pageIn e => Sys2Proof.Machine.execPageIn e s
  | .mgtGpio5Rise tooSoon => Sys2Proof.Machine.execMgtGpio5Rise tooSoon s
  | .ppsSecond => Sys2Proof.Machine.execPpsSecond s
  | .flitReceive p flit => Sys2Proof.Machine.execFlitReceive p flit s
  | .nakReceive p ack => Sys2Proof.Machine.execNakReceive p ack s
  | .ackTimeout p => Sys2Proof.Machine.execAckTimeout p s
  | .resendLimit p => Sys2Proof.Machine.execResendLimit p s
  | .portTrainingDone p r => Sys2Proof.Machine.execPortTrainingDone p r s
  | .trainingTimeout p => Sys2Proof.Machine.execTrainingTimeout p s
  | .linkId p info => Sys2Proof.Machine.execLinkId p info s
  | .heartbeatEdge => Sys2Proof.Machine.execHeartbeatEdge s
  | .heartbeatTimeout => Sys2Proof.Machine.execHeartbeatTimeout s
  | .twinFailInAssert => Sys2Proof.Machine.execTwinFailInAssert s
  | .twinFailInRelease => Sys2Proof.Machine.execTwinFailInRelease s
  | .memberLost x => Sys2Proof.Machine.execMemberLost x s
  | .takeover lost spare => Sys2Proof.Machine.execTakeover lost spare s
  | .recover msg => Sys2Proof.Machine.execRecover msg s
  | .offer o => Sys2Proof.Machine.execOffer o s
  | .formTimeout => Sys2Proof.Machine.execFormTimeout s
  | .dissolve => Sys2Proof.Machine.execDissolve s
  | .syncTimer => Sys2Proof.Machine.execSyncTimer s
  | .sync p t1 answer arrived => Sys2Proof.Machine.execSync p t1 answer arrived s
  | .readyMessage x step => Sys2Proof.Machine.execReadyMessage x step s
  | .commit step token => Sys2Proof.Machine.execCommit step token s
  | .log token step state => Sys2Proof.Machine.execLog token step state s
  | .logged token => Sys2Proof.Machine.execLogged token s
  | .ack x step => Sys2Proof.Machine.execAck x step s
  | .done step token => Sys2Proof.Machine.execDone step token s
  | .rollback step => Sys2Proof.Machine.execRollback step s
  | .state x committed undecided logs => Sys2Proof.Machine.execState x committed undecided logs s
  | .herdWaitLimitExpiry h => Sys2Proof.Machine.execHerdWaitLimitExpiry h s
  | .keepalive => Sys2Proof.Machine.execKeepalive s
  | .keepaliveTimeout noRoute => Sys2Proof.Machine.execKeepaliveTimeout noRoute s
  | .collectiveNode msg => Sys2Proof.Machine.execCollectiveNode msg s
  | .herdCtxNode msg => Sys2Proof.Machine.execHerdCtxNode msg s
  | .checkpointPage x step page bytes => Sys2Proof.Machine.execCheckpointPage x step page bytes s
  | .checkpointConfirm side => Sys2Proof.Machine.execCheckpointConfirm side s
  | .restoreQuery msg => Sys2Proof.Machine.execRestoreQuery msg s
  | .twinHbOutToggle => Sys2Proof.Machine.execTwinHbOutToggle s
  | .keyCommandDone => Sys2Proof.Machine.execKeyCommandDone s
  | .restorePage page bytes => Sys2Proof.Machine.execRestorePage page bytes s
  | .herdCtxResult k words ev => Sys2Proof.Machine.execHerdCtxResult k words ev s
  | .blockLockLoss p => Sys2Proof.Machine.execBlockLockLoss p s
  | .backInvalidate e => Sys2Proof.Machine.execBackInvalidate e s
  | .l1Fill e victim => Sys2Proof.Machine.execL1Fill e victim s
  | .dramWriteDone => Sys2Proof.Machine.execDramWriteDone s
  | .sramCe unit off => Sys2Proof.Machine.execSramCe unit off s
  | .smbUnknownCommand code => Sys2Proof.Machine.execSmbUnknownCommand code s
  | .msixVectorUnmask f v => Sys2Proof.Machine.execMsixVectorUnmask f v s

end Sys2Proof.Machine
end

