-- ==== Sys2Proof/Machine/Tick.lean ====
section
/-! DEFINITION. One 10 ns tick of the counter of herd time (10 R294, R295). -/
namespace Sys2Proof.Machine

/-- Steering of R295 in 2^-16 ticks, within ±1,000 ppm: a member that is not the leader follows its parent; any other device
keeps its own rate. -/
def State.steer (s : State) : Int :=
  if s.herd.formed && s.herd.leader != s.herd.self then max (-65) (min 65 (Config.steer s.free)) else 0

/-- The counter runs from SYS_REFCLK, which every PLL and clock of the device needs but the AON island's (12 R329): it stands
while the device is off. -/
def State.tick (s : State) : State :=
  if s.mode = .off then s
  else
    let w := (s.frac.toNat : Int) + 65536 + s.steer
    { s with time := s.time + BitVec.ofInt 64 (w / 65536), frac := BitVec.ofInt 16 (w % 65536), free := s.free + 1 }

end Sys2Proof.Machine
end

