-- ==== Sys2Proof/Machine/Step.lean ====
section
/-! DEFINITION. step: the front command of the queue, or one tick of the clock. -/
namespace Sys2Proof.Machine

/-- The front command runs with the queue's rest; on an empty queue the counter of R294 takes one 10 ns tick (log 3). -/
def step (s : State) : Host.Outcome State Fault Refusal :=
  match s.pending with
  | [] => .next s.tick
  | c :: rest => exec c { s with pending := rest }

/-- s with the command that the word spells at the front of its queue; s where it spells none. -/
def State.withFetchWord (s : State) (nbits w : Nat) : State :=
  match decodeTableWord nbits w with
  | some c => { s with pending := c :: s.pending }
  | none => s

end Sys2Proof.Machine
end

