-- ==== Sys2Proof/WellFormed.lean ====
section
/-!
DEFINITION. Well-formed commands: every instance a command names is one the part has. A command that is not well-formed
ends in the fault noSuchInstance.
-/
namespace Sys2Proof

/-- Addressable bytes of HBM (08 R188, Table MEM-1: four stacks of 24 GiB). -/
def hbmBytes : Nat := 96 * 2 ^ 30

/-- Pages of 64 KiB that lie below the highest place of a parameter region (09 R252). -/
def pagesMax : Nat := 114688

/-- Units of the on-die arrays (13 Table SEC-7): engines, L2 halves, Control Island, AON. -/
def ceUnits : List Nat := [0, 1, 2, 3, 4, 5, 6, 7, 0x10, 0x11, 0x40, 0x48]

/-- Units whose uncorrectable SRAM errors are FATAL. -/
def fatalUnits : List Nat := [0x10, 0x11, 0x40]

/-- Whether every instance that a command names exists: 256 Hoppers, 16 functions, 8 engines of 128 clusters, 8
partitions, 4 ports, 16 key slots, 64 herd IDs, 16 MiB of BAR0, 64 GiB of BAR2. -/
def Instr.wf : Instr → Bool
  | .nop h | .fence h | .fencePoll h _ | .epochFence h | .timestamp h | .frameTick h | .sleepHint h | .ctxOpen h
  | .ctxFeed h | .ctxClose h | .ctxQuery h | .reduce h | .sfnApply h | .ewise h | .softmax h | .layernorm h | .rmsnorm h
  | .softmaxBwd h | .normBwd h | .prefetch h | .flushRange h | .invalRange h | .windowSet h | .copy h | .stashSave h
  | .stashLoad h | .bucketReduce h | .shardGather h | .reduceScatter h | .updateStep h | .commitStep h | .rollbackStep h
  | .checkpoint h | .restore h | .replayArm h | .replayRun h | .herdForm h | .herdLeave h | .herdTime h | .engineFence h
  | .engineUnfence h _ | .srSeed h | .fallowExit h | .debugAccRead h | .unlistedOpcode h | .partitionMap h | .placement h
  | .stashRegion h | .overflowRegion h | .replayBuffer h | .checkpointReserve h | .paramRegion h | .tickSource h
  | .pressureDemote h | .protectedRegion h | .ctxWaitLimitExpiry h | .packetComplete h _ | .irqCoalesceTimeout h
  | .herdWaitLimitExpiry h => h < 256
  | .doorbellTailWrite f h _ | .doorbellCplHeadWrite f h _ | .hopCtrlWrite f h _ | .hopIrqWrite f h _ => f < 16 && h < 256
  | .segmentDispatch e | .segmentEnd e | .carryNodeArrival e | .pendingEntryFreed e | .ctxSlotFreed e | .idleDelayExpiry e
  | .engineUe e _ _ | .evictionNotice e | .backInvalidateAnswer e | .pageOut e | .pageIn e | .backInvalidate e
  | .l1Fill e _ => e < 8
  | .tileComplete e c | .tailraceDrainDone e c => e < 8 && c < 128
  | .glbLockSet f _ | .advanceRollback f | .disableDebug f | .dbgReqRequest f | .dbgReqSubmit f | .errClear f
  | .fatalClear f | .flashRead f | .flashErase4k f | .flashProgram f | .configRequest f _ | .flrVf f => f < 16
  | .granuleOwnWrite f dword _ => f < 16 && dword < 12
  | .pressureLimitWrite f p _ => f < 16 && p < 8
  | .ctxPeakWrite f e _ => f < 16 && e < 8
  | .registerWrite f off _ _ _ | .lowDwordRead f (.dword off) | .lowDwordRead f (.wide off) => f < 16 && off < 2 ^ 24
  | .bar2Read f off len => f < 16 && off + len ≤ 2 ^ 36
  | .bar2Write f off bytes _ => f < 16 && off + bytes.length ≤ 2 ^ 36
  | .keyAssign f slot owner => f < 16 && slot < 16 && owner < 8
  | .keyLoad f slot | .keyGenerate f slot | .keyErase f slot | .keyRelease f slot => f < 16 && slot < 16
  | .revokeKey f i => f < 16 && i < 4
  | .retrain f p => f < 16 && p < 4
  | .msixVectorUnmask f v => f < 16 && v < Config.msixTableSize
  | .dbgResponse bytes => bytes.length = 192
  | .dozeEntry half | .dozeWake half => half < 2
  | .selfRefreshEntry k => k < 4
  | .pllLoss i => i < 9
  | .fatalSram unit _ => fatalUnits.contains unit
  | .sramCe unit _ => ceUnits.contains unit
  | .cacheRefetch (.l1 e _) addr => e < 8 && addr < hbmBytes
  | .cacheRefetch .l2 addr | .l2Poison addr => addr < hbmBytes
  | .aonUe (.keySlot n) _ => n < 16
  | .hbmRefresh loc _ => loc < hbmBytes / 32
  | .pressureWindowEnd p => p < 8
  | .flitReceive p _ | .ackTimeout p | .resendLimit p | .portTrainingDone p _ | .trainingTimeout p | .blockLockLoss p => p < 4
  | .nakReceive p n => p < 4 && n < 4096
  | .sync p _ _ _ => p < 4
  | .linkId p info => p < 4 && info.port < 4
  | .memberLost x | .readyMessage x _ | .ack x _ | .state x _ _ _ => x < 64
  | .takeover lost spare => lost < 64 && spare < 64
  | .offer o => o.x < 64
  | .herdCtxNode msg => msg.x < 64
  | .checkpointPage x _ page _ => x < 64 && page < pagesMax
  | .restorePage page _ => page < pagesMax
  | .checkpointConfirm (.holder x _) | .restoreQuery (.asked x _) => x < 64
  | .aonUe .startState _ | .aonUe .image _ | .aonUe .hbmTraining _ | .aonUe .config _ | .aonUe .telemetry _
  | .checkpointConfirm (.sender _) | .restoreQuery (.answered _) | .restoreQuery .unanswered => true
  | .packetFetch _ | .replayCountReached | .fuseOpDone _ | .debugVerifyDone _ _ | .debugEraseDone _ | .nonceExpiry
  | .flashOpDone _ | .smbStatus | .smbFallowReason | .smbBootAttempts | .smbTemp | .smbPower | .smbIdent
  | .smbTelemetryPeriod _ | .smbFallowDetail | .smbWake | .smbClearAttempts | .smbRestart _ | .smbPwrLimit _
  | .smbAlertStatus _ | .smbAlertMask _ | .smbAlertResponse | .smbClkLowTimeout | .smbUnknownCommand _ | .extest | .idcode
  | .samplePreload _ | .clamp | .highz | .dbgRequest _ | .dbgChallenge | .dbgStatus | .dbgScan _ | .bypass | .tapReset
  | .perstNAssert | .perstNDeassert _ | .resetHoldExpiry _ | .bootAttemptsClear | .millerWatchdogExpiry _ | .pmeTurnOff
  | .flrPf | .sensorSample _ _ _ | .throttleStep | .prochotAssert | .prochotDeassert | .supplyFault | .vddAonLoss
  | .vddAonPowerUp | .aonReady _ _ | .aonXtalFail | .telemetrySample | .hbmReadReturn _ _ | .mgtGpio5Rise _ | .ppsSecond
  | .heartbeatEdge | .heartbeatTimeout | .twinFailInAssert | .twinFailInRelease | .recover _ | .formTimeout | .dissolve
  | .syncTimer | .commit _ _ | .log _ _ _ | .logged _ | .done _ _ | .rollback _ | .keepalive
  | .keepaliveTimeout _ | .collectiveNode _ | .twinHbOutToggle | .keyCommandDone | .herdCtxResult _ _ _
  | .dramWriteDone => true

end Sys2Proof
end

