-- ==== Sys2Proof/Safety.lean ====
section
/-!
DEFINITION. The terms statements use: what a safe state is, and when a packet is ready to be taken up.
-/
namespace Sys2Proof.Machine

/-- Every numbered bank has the size the manual gives it. -/
def State.sized (s : State) : Bool :=
  s.hops.length = 256 && s.parts.length = 8 && s.engines.length = 8 && s.wins.length = 16 && s.ports.length = 4

/-- Packet numbers rise in fetch order and lie below n, the next one (03 R57, 07 R162). -/
def idsRise (n : Nat) : List Pkt → Bool
  | [] => true
  | p :: t => p.id < n && (t.all fun q => p.id < q.id) && idsRise n t

/-- A safe state: every byte memory in canonical form, every bank of its size. No step may break it. -/
def State.safe (s : State) : Bool := Memory.wf s && s.sized

/-- Every fuse that a has programmed is programmed in b. -/
def Fuses.within (a b : Fuses) : Prop := a.revoke &&& b.revoke = a.revoke ∧ a.rollback ≤ b.rollback ∧ (a.debugDisable → b.debugDisable)

/-- The byte of HBM at a stack location. -/
def State.hbmByte (s : State) (loc : Nat) : BitVec 8 := readCell 0 s.mem.hbm loc

/-- The byte of the boot flash at an address. -/
def State.flashByte (s : State) (a : Nat) : BitVec 8 := readCell 0xFF s.flash.cells a

/-- The byte of host memory at an address. -/
def State.hostByte (s : State) (a : Nat) : BitVec 8 := readCell 0 s.host a

/-- The packet p, decoded (03 R65, 04 R95). -/
def State.decoded (s : State) (p : Pkt) : State :=
  s.modPkt p.id fun q => { q with stage := .decoded, seed := (s.part p.part).seed }

/-- The packet p, dispatched: its time is taken, and the parameter pages' state where it is recorded; a DEEP grant and its
partition's sleep hint end (07 R169, 09 R266, 12 R332, R334). -/
def State.taken (s : State) (p : Pkt) : State :=
  ((s.modPkt p.id fun q => { q with
    stage := .running, time0 := s.now, pages0 := if q.recd then s.regions.pages else [] }).withdraw).endHint p.part

/-- The front packet of Hopper h as opcode o's meaning finds it, and the state then: decoded without an offence in the view of
what was decoded before it, dispatched, its partition not without engines, its operands within reach. None where the packet
does not get that far, or where another packet has its number (which idsRise rules out). -/
def State.dispatched (s : State) (h : Nat) (o : OpBody) : Option (Pkt × State) :=
  match s.front h with
  | none => none
  | some p =>
    let v := s.decodeView p
    if s.running && s.pkt p.id = some p && o.sel p && p.stage = .fetched && s.mayDecode p && (v.judge p (o.units p) (o.dec v p)).isNone then
      let t := o.atDecode (s.decoded p) (((s.decoded p).pkt p.id).getD p)
      match t.pkt p.id with
      | none => none
      | some q =>
        if q.stage = .decoded && q.wait = .none && t.mayDispatch q &&
            !(((opInfo q.op).map (·.e)).getD false && (t.taken q).unfenced q.part = []) &&
            ((t.taken q).rowFault q.part (o.dec (t.taken q) q).reach).isNone then
          some (((t.taken q).pkt q.id).getD q, t.taken q)
        else none
    else none

end Sys2Proof.Machine
end

