-- ==== Sys2Proof/Certificates/Slice0/Obligations.lean ====
section
/-! DEFINITION. The statements for the provers: what each command does, what it leaves alone, and what every step keeps. -/

open Sys2Proof Sys2Proof.Machine

/-! ### The queue and the whole machine -/

/-- A step runs the front command with the queue's rest. -/
def Obligations.StepRunsFrontCommand : Prop :=
  ∀ (c : Instr) (rest : List Instr) (s : State), s.pending = c :: rest → step s = exec c { s with pending := rest }

/-- On an empty queue the counter of herd time takes a tick: the time and its fraction move by one 10 ns tick, steered by
at most 65 parts in 65,536 (R294, R295; that a step on an empty queue is one tick is the model's choice, log 3). -/
def Obligations.EmptyQueueTicks : Prop :=
  ∀ s : State, s.pending = [] → s.mode ≠ .off →
    ∃ (t : State) (k : Int), step s = .next t ∧ t = { s with time := t.time, frac := t.frac, free := s.free + 1 } ∧
      k.natAbs ≤ 65 ∧ (s.herd.formed = false → k = 0) ∧
      t.time.toNat * 65536 + t.frac.toNat = (s.time.toNat * 65536 + s.frac.toNat + (65536 + k).toNat) % 2 ^ 80

/-- A well-formed command always gives a next state; any other ends in the fault noSuchInstance. -/
def Obligations.RunsExactlyWhenWellFormed : Prop :=
  ∀ (c : Instr) (s : State),
    (c.wf = true → ∃ t, exec c s = .next t) ∧ (c.wf = false → exec c s = .fault .noSuchInstance)

/-- No command adds to the queue or takes from it: the queue is first in, first out. -/
def Obligations.EffectsLeaveTheQueueAlone : Prop :=
  ∀ (c : Instr) (s t : State), exec c s = .next t → t.pending = s.pending

/-- The values Table REG-3, REG-9, REG-13, REG-18, REG-20, REG-23 to REG-25 give for reset. The state after reset is safe,
and no packet is in flight. -/
def Obligations.ResetValuesAreSafe : Prop :=
  (State.reset.glb.lock = false ∧ State.reset.glb.ctxWaitLimit = 100 ∧
   (∀ h < 256, (State.reset.hop h).en = false ∧ (State.reset.hop h).cls = 2 ∧ (State.reset.hop h).cmdLog2 = 6 ∧
     (State.reset.hop h).cplLog2 = 6 ∧ (State.reset.hop h).irqCount = 1 ∧ (State.reset.hop h).head = 0 ∧
     (State.reset.hop h).tail = 0) ∧
   (∀ g < 96, State.reset.granuleOwner (g * 2 ^ 30) = 0xF) ∧
   (∀ p < 8, (State.reset.part p).limit = 0 ∧ (State.reset.part p).epochCount = 0 ∧ (State.reset.part p).frameCount = 0) ∧
   State.reset.train.committed = 0 ∧ State.reset.herd.formed = false ∧ State.reset.herd.hbTimeout = 4 ∧
   State.reset.err.mask = 0x30 ∧ State.reset.err.head = 0 ∧ State.reset.sec.dbg = 0 ∧
   (∀ n < 16, (State.reset.sec.slots.getD n {}).state = 0) ∧ State.reset.aon.period = 1000 ∧
   State.reset.aon.alertMask = 0x3F ∧ State.reset.pwr.dozeDelay = 0 ∧ State.reset.pending = []) ∧
  (State.reset.safe = true ∧ idsRise State.reset.nextId State.reset.pkts = true)

/-- A step keeps a state safe: every byte memory stays in canonical form and every bank of registers keeps its size. -/
def Obligations.EveryStepKeepsStateSafe : Prop :=
  ∀ s t : State, s.safe = true → step s = .next t → t.safe = true

/-- Every step keeps the packets in flight in fetch order, each with a number of its own below the next one (R57, R162). -/
def Obligations.EveryStepKeepsPacketNumbersRising : Prop :=
  ∀ s t : State, idsRise s.nextId s.pkts = true → step s = .next t → idsRise t.nextId t.pkts = true

/-- Only FLASH_OP_DONE, in FALLOW and after a command, changes the boot flash (R383). Only FUSE_OP_DONE changes a fuse,
and no fuse is ever cleared (R361, R362). DEBUG_WAS_OPENED is set only where the device enters DEBUG_OPEN and is lost
only with VDD_AON (R373). -/
def Obligations.FlashFusesAndDebugChangeOnlyByTheirEvents : Prop :=
  (∀ (c : Instr) (s t : State), exec c s = .next t → t.flash.cells ≠ s.flash.cells →
     s.mode = .fallow ∧ s.flash.busy = true ∧ c = .flashOpDone true) ∧
  (∀ (c : Instr) (s t : State), exec c s = .next t →
     s.sec.fuses.within t.sec.fuses ∧ (t.sec.fuses ≠ s.sec.fuses → c = .fuseOpDone true ∧ s.sec.fuseOp.isSome = true)) ∧
  (∀ (c : Instr) (s t : State), exec c s = .next t →
     (s.aon.debugOpened = true → t.aon.debugOpened = true ∨ c = .vddAonLoss) ∧
     (s.aon.debugOpened = false → t.aon.debugOpened = true → c = .debugEraseDone none ∧ t.mode = .debugOpen))

/-! ### SMBus and test access port -/

/-- A read command of Table PWR-11 gives its bytes and leaves the device as it was, but for CONFLICT_SEEN. A write command
of Table PWR-11 sets its register when the value is legal; a register shared with BAR0 logs an illegal one as
REG_IGNORED (which the AON summary alone counts while ERRLOG has no power, log 57). It ends a DEEP grant (R334), and
nothing else changes. RESTART of a device in FALLOW starts it; the alert response gives the target's address while
SMB_ALERT_N is asserted; an unknown code is not acknowledged; a clock held low changes nothing (R351, R352). -/
def Obligations.SmbusCommandsAnswer : Prop :=
  (∀ s : State, s.aonUp = true →
     let give (n v : Nat) : State := (s.emit (.smb (leBytes n v))).noteAll
     exec .smbStatus s = .next (give 2 s.smbStatus) ∧
     exec .smbFallowReason s = .next (give 1 s.aon.reason) ∧
     exec .smbBootAttempts s = .next (give 1 s.aon.attempts) ∧
     exec .smbTemp s = .next (give 2 (s.pwr.tempMax % 65536).toNat) ∧
     exec .smbPower s = .next (give 2 (if s.mode = .deep then 0 else s.pwr.power % 65536)) ∧
     exec .smbFallowDetail s = .next (give 4 s.aon.detail.toNat) ∧
     exec (.smbTelemetryPeriod none) s = .next (give 2 s.aon.period) ∧
     exec (.smbPwrLimit none) s = .next (give 2 s.pwr.limit) ∧
     exec (.smbAlertStatus none) s = .next (give 1 s.aon.alert.toNat) ∧
     exec (.smbAlertMask none) s = .next (give 1 s.aon.alertMask.toNat) ∧
     exec .smbIdent s = .next ((s.emit (.smb (leBytes 8 Config.serial.toNat ++
       [0xB1, if s.glb.grade14 then 0x0E else 0x0C] ++ leBytes 4 s.image.fw.toNat ++ [0, 0]))).noteAll)) ∧
  (∀ s : State, s.aonUp = true →
     let ignored (off v : Nat) : State :=
       if s.mode = .ready ∨ s.mode = .fallow ∨ s.mode = .debugOpen ∨ s.mode = .halted then
         s.withdraw.logEntry { cause := 0x03, cls := 2, hopper := 0xFF, a := BitVec.ofNat 64 off, b := BitVec.ofNat 64 v }
       else s.withdraw.countOnly 2
     (∀ v : BitVec 16, exec (.smbTelemetryPeriod (some v)) s = .next ((if 1 ≤ v.toNat ∧ v.toNat ≤ 60000 then
       s.withdraw.setPeriod v.toNat else ignored 0x1000C v.toNat).noteAll)) ∧
     (∀ v : BitVec 16, exec (.smbPwrLimit (some v)) s = .next ((if s.limitOk v.toNat then
       s.withdraw.modPwr fun p => { p with limit := v.toNat } else ignored 0x24000C v.toNat).noteAll)) ∧
     (∀ v : BitVec 8, exec (.smbAlertStatus (some v)) s =
       .next ((s.withdraw.modAon fun a => { a with alert := a.alert &&& ~~~(v &&& 0x3F) }).noteAll)) ∧
     (∀ v : BitVec 8, exec (.smbAlertMask (some v)) s =
       .next ((s.withdraw.modAon fun a => { a with alertMask := v &&& 0x3F }).noteAll)) ∧
     (s.mode = .fallow → exec .smbClearAttempts s =
       .next ((s.withdraw.modAon fun a => { a with attempts := 0 }).noteAll)) ∧
     (s.mode = .deep → exec .smbWake s =
       .next ({ s.withdraw with pins := { s.pins with wakeN := false } }.noteAll))) ∧
  (∀ s : State, s.aonUp = true →
     (∀ env : StartEnv, s.mode = .fallow → exec (.smbRestart env) s = .next ((s.withdraw.coldStart env).noteAll)) ∧
     (s.aon.alert &&& s.aon.alertMask ≠ 0 → exec .smbAlertResponse s =
       .next ((s.emit (.smb (leBytes 1 (2 * s.aon.smbAddr.toNat)))).noteAll)) ∧
     (∀ code : BitVec 8, exec (.smbUnknownCommand code) s = .next ((s.emit .smbNak).noteAll)) ∧
     exec .smbClkLowTimeout s = .next s.noteAll)

/-- Each TAP instruction is selected, takes or gives its register, and leaves the rest of the device as it was; what the
boundary cells and the private chains shift out is free (log 15). -/
def Obligations.TapInstructions : Prop :=
  ∀ s : State, s.mode ≠ .off →
    let sel (ir : Nat) : State := { s with tap := { s.tap with ir := ir, drives := ir = 0 || ir = 4, highz := ir = 5 } }
    exec .idcode s = .next (((sel 1).emit (.tap (leBytes 4 0xB088054B))).noteAll) ∧
    exec .clamp s = .next (sel 4).noteAll ∧ exec .highz s = .next (sel 5).noteAll ∧
    exec .bypass s = .next (sel 0xFF).noteAll ∧ exec .tapReset s = .next (sel 1).noteAll ∧
    exec .dbgStatus s = .next (((sel 0x43).emit (.tap (leBytes 1 (s.sec.dbg + 16 * s.sec.dbgFails)))).noteAll) ∧
    exec .dbgChallenge s = .next (((sel 0x41).emit (.tap s.challenge)).noteAll) ∧
    (∀ n : Nat, s.mode ≠ .debugOpen → exec (.dbgScan n) s = .next (sel 0x48).noteAll) ∧
    (∃ bs, bs.length = 4 ∧ exec .extest s = .next (((sel 0).draw.emit (.tap bs)).noteAll)) ∧
    (∀ w : BitVec 32, ∃ bs, bs.length = 4 ∧ exec (.samplePreload w) s =
      .next ({ ((sel 2).draw.emit (.tap bs)) with tap := { (sel 2).tap with boundary := w } }.noteAll)) ∧
    exec (.dbgRequest false) s = .next (sel 0x40).noteAll

/-- A request for Debug Open that every condition of R363 allows, by the SEC block or by the TAP, opens a challenge: a
fresh nonce, the staged response zeroed (R363, R364); the response of either path is then taken once (R364, R365). A
request that R363 refuses opens nothing: DISABLED, LOCKED_OUT or BUSY is what DBG_STATUS reads, and DEBUG_REFUSED is
logged with the path and that code (R363, R365, R367; BUSY for a halted device is the model's choice, log 46). A
response to a challenge whose nonce is still good goes to verification, and voids the nonce (R364, R365). A response
whose key has the fused hash and whose signature verifies over the challenge block erases every key, disables every
region and every Hopper before DEBUG_OPEN, and asserts TWIN_FAIL_OUT; a wrong key or signature counts as a failure,
the third locks out; a clean erase opens the device and sets DEBUG_WAS_OPENED (R364, R365, R366, Table SEC-5, R282,
R373). -/
def Obligations.DebugOpensByChallenge : Prop :=
  (∀ s : State, (s.mode = .ready ∨ s.mode = .fallow) → s.pcieUp = true → s.sec.dbg = 0 →
     s.sec.inForce.debugDisable = false → s.sec.lockedOut = false → s.pwr.deepGrant = false →
     (∀ k ∈ s.hops, k.en = false) → s.pkts = [] →
     let asked (tap : Bool) : Sec := { s.sec with dbg := 1, nonce := BitVec.ofNat 256 (Config.drbg s.free).toNat, nonceOk := true,
                                                  tapPath := tap, response := List.replicate 192 0 }
     exec (.dbgReqRequest 0) s = .next ({ s with sec := asked false, free := s.free + 1 } : State).noteAll ∧
     exec (.dbgRequest true) s = .next ({ s with
       sec := asked true, free := s.free + 1, tap := { s.tap with ir := 0x40, drives := false, highz := false } } : State).noteAll) ∧
  (∀ s : State, (s.mode = .ready ∨ s.mode = .fallow ∨ s.mode = .halted) → s.pcieUp = true → (s.sec.dbg = 0 ∨ 8 ≤ s.sec.dbg) →
     let off := s.sec.inForce.debugDisable
     let locked := s.sec.lockedOut
     let refused (st : Nat) : State := ({ s with sec := { s.sec with dbg := st } } : State).logEntry
       { cause := 0x30, cls := 2, a := 0, b := BitVec.ofNat 64 st }
     (off = true → exec (.dbgReqRequest 0) s = .next (refused 0xC).noteAll) ∧
     (off = false → locked = true → exec (.dbgReqRequest 0) s = .next (refused 0xD).noteAll) ∧
     (off = false → locked = false → (s.mode = .halted ∨ s.pwr.deepGrant = true ∨ (∃ k ∈ s.hops, k.en = true) ∨ s.pkts ≠ []) →
       exec (.dbgReqRequest 0) s = .next (refused 0x8).noteAll)) ∧
  (∀ s : State, s.pcieUp = true → s.sec.dbg = 1 → s.sec.nonceOk = true →
     let sent (bytes : List (BitVec 8)) : Sec := { s.sec with dbg := 2, nonceOk := false, response := List.replicate 192 0,
                                                              checking := (bytes, s.challenge) }
     exec (.dbgReqSubmit 0) s = .next ({ s with sec := sent s.sec.response } : State).noteAll ∧
     (∀ bytes : List (BitVec 8), bytes.length = 192 → exec (.dbgResponse bytes) s = .next ({ s with
       sec := sent bytes, tap := { s.tap with ir := 0x42, drives := false, highz := false } } : State).noteAll) ∧
     exec .nonceExpiry s = .next { s with sec := { s.sec with nonceOk := false } }) ∧
  ((∀ (s : State) (key sig : List (BitVec 8)), s.sec.dbg = 2 → s.running = true → s.sec.checking.1 = key ++ sig →
     key.length = 96 →
     let keyOk := sha384 key = s.sec.inForce.debugKeyHash.toNat
     let sigOk := signed key sig s.sec.checking.2 = true
     let failed (st : Nat) : State := ({ s with sec := { s.sec with
       checking := ([], []), dbg := st, dbgFails := min (s.sec.dbgFails + 1) 3,
       lockedOut := s.sec.lockedOut || decide (3 ≤ s.sec.dbgFails + 1) } } : State).logEntry
         { cause := 0x30, cls := 2, a := BitVec.ofNat 64 (b2n s.sec.tapPath), b := BitVec.ofNat 64 st }
     (keyOk → sigOk → ∃ t, exec (.debugVerifyDone key sig) s = .next t ∧ t.sec.dbg = 3 ∧ t.sec.dbgFails = 0 ∧
       t.sec.slots = List.replicate 16 {} ∧ (∀ r ∈ t.sec.regions, r.enable = false) ∧ t.pins.failOut = true ∧
       (∀ k ∈ t.hops, k.en = false) ∧ t.pkts = [] ∧ t.ctxs = [] ∧ t.mem.lines = [] ∧ t.mem.hbm = s.mem.hbm) ∧
     (¬keyOk → exec (.debugVerifyDone key sig) s = .next (failed 0x9).noteAll) ∧
     (keyOk → ¬sigOk → exec (.debugVerifyDone key sig) s = .next (failed 0xA).noteAll)) ∧
   (∀ s : State, s.sec.dbg = 3 → s.running = true → ∃ t, exec (.debugEraseDone none) s = .next t ∧ t.mode = .debugOpen ∧
     t.sec.dbg = 4 ∧ t.aon.debugOpened = true ∧ t.mem = s.mem ∧ t.sec.slots = s.sec.slots))

/-! ### Key Store, fuses, flash, doors of the Hoppers -/

/-- A key command that reaches a block that is not BUSY waits its turn with the staged key, and sets BUSY; nothing else
changes (R354, R394). A key command done in the order of arrival: what Table SEC-1 allows takes its effect on its slot
and no other, the function's staged key is zeroed and its result reads DONE; GENERATE draws its two keys (free values)
and is refused, as LOAD is, where they are equal (R354). A key command that R354 or Table SEC-1 refuses leaves every
slot as it was, zeroes the staged key and reads REFUSED. -/
def Obligations.KeyCommandsKeepTheirOrder : Prop :=
  (∀ (f slot owner : Nat) (s : State), f < 16 → slot < 16 → owner < 8 → s.funcUp f = true → (s.keyFunc f).busy = false →
     let d := (s.keyFunc f).data.toNat
     let queued (cmd own : Nat) : State := { s with sec := { s.sec with
       queue := s.sec.queue ++ [{ func := f, cmd := cmd, slot := slot, owner := own, key1 := BitVec.ofNat 256 d,
                                  key2 := BitVec.ofNat 256 (d / 2 ^ 256), dbg := s.mode = .debugOpen }],
       funcs := (s.sec.funcs.modify f fun k => { k with busy := true, refused := false }) } }
     exec (.keyAssign f slot owner) s = .next (queued 1 owner) ∧ exec (.keyLoad f slot) s = .next (queued 2 0) ∧
     exec (.keyGenerate f slot) s = .next (queued 3 0) ∧ exec (.keyErase f slot) s = .next (queued 4 0) ∧
     exec (.keyRelease f slot) s = .next (queued 5 0)) ∧
  (∀ (s : State) (c : KeyCmd) (rest : List KeyCmd), s.pcieUp = true → s.sec.queue = c :: rest → c.dbg = false →
     (∀ r ∈ s.sec.regions, ¬(r.enable = true ∧ r.slot = c.slot)) →
     let k := s.sec.slots.getD c.slot {}
     let done (k' : KeySlot) : State := { s with free := s.free + 1, sec := { s.sec with
       queue := rest, slots := s.sec.slots.set c.slot k',
       funcs := (s.sec.funcs.modify c.func fun x => { x with busy := false, refused := false, data := 0 }) } }
     let refused : State := { s with free := s.free + 1, sec := { s.sec with
       queue := rest, funcs := (s.sec.funcs.modify c.func fun x => { x with busy := false, refused := true, data := 0 }) } }
     let mine := c.func = 0 ∨ s.funcPart c.func = some k.owner
     (c.cmd = 1 → c.func = 0 → k.state = 0 → exec .keyCommandDone s = .next (done { state := 1, owner := c.owner })) ∧
     (c.cmd = 2 → mine → k.state ≠ 0 → c.key1 ≠ c.key2 →
       exec .keyCommandDone s = .next (done { k with state := 2, key1 := c.key1, key2 := c.key2 })) ∧
     (c.cmd = 3 → mine → k.state ≠ 0 →
       let k1 := BitVec.ofNat 256 (Config.drbg s.free).toNat
       let k2 := BitVec.ofNat 256 ((Config.drbg s.free).toNat / 2 ^ 256)
       exec .keyCommandDone s = .next (if k1 ≠ k2 then done { k with state := 2, key1 := k1, key2 := k2 }
         else refused.logEntry { cause := 0x05, cls := 2, a := BitVec.ofNat 64 c.slot, b := 3 })) ∧
     (c.cmd = 4 → mine → k.state ≠ 0 → exec .keyCommandDone s = .next (done { k with state := 1, key1 := 0, key2 := 0 })) ∧
     (c.cmd = 5 → c.func = 0 → exec .keyCommandDone s = .next (done {}))) ∧
  (∀ (s : State) (c : KeyCmd) (rest : List KeyCmd), s.pcieUp = true → s.sec.queue = c :: rest →
     ((∃ r ∈ s.sec.regions, r.enable = true ∧ r.slot = c.slot) ∧ 2 ≤ c.cmd ∧ c.cmd ≤ 5 ∨
       c.cmd = 2 ∧ c.key1 = c.key2 ∨ c.dbg = true ∧ 1 ≤ c.cmd ∧ c.cmd ≤ 3 ∨
       c.cmd = 1 ∧ (s.sec.slots.getD c.slot {}).state ≠ 0 ∨ c.func ≠ 0 ∧ (c.cmd = 1 ∨ c.cmd = 5) ∨
       c.func ≠ 0 ∧ 2 ≤ c.cmd ∧ c.cmd ≤ 4 ∧ s.funcPart c.func ≠ some (s.sec.slots.getD c.slot {}).owner) →
     ∃ t, exec .keyCommandDone s = .next t ∧ t.sec.slots = s.sec.slots ∧ t.sec.queue = rest ∧
       t.sec.funcs = s.sec.funcs.modify c.func (fun x => { x with busy := false, refused := true, data := 0 }) ∧
       t.mem = s.mem ∧ t.hops = s.hops)

/-- A fuse command of the physical function in the normal started state begins its operation (R362). A fuse operation that
verifies has programmed its fuse; what is in force changes only at the next start (R362, R361). -/
def Obligations.FusesAreProgrammed : Prop :=
  (∀ s : State, s.mode = .ready → s.pcieUp = true → s.sec.fuseOp = none →
     let begun (op : FuseOp) : State := { s with sec := { s.sec with fuseOp := some op } }
     (∀ i < 4, i ≠ s.image.keyIndex → s.sec.fuses.revoke ||| BitVec.ofNat 4 (2 ^ i) ≠ 0xF →
       exec (.revokeKey 0 i) s = .next (begun (.revoke i))) ∧
     exec (.advanceRollback 0) s = .next (begun .rollback) ∧ exec (.disableDebug 0) s = .next (begun .disableDebug)) ∧
  (∀ s : State, s.pcieUp = true →
     let done (x : Fuses) : State := { s with sec := { s.sec with fuseOp := none, fuses := x }, pins := { s.pins with fuseVpp := true } }
     (∀ i, s.sec.fuseOp = some (.revoke i) → exec (.fuseOpDone true) s =
       .next (done { s.sec.fuses with revoke := s.sec.fuses.revoke ||| BitVec.ofNat 4 (2 ^ i) })) ∧
     (s.sec.fuseOp = some .rollback → exec (.fuseOpDone true) s =
       .next (done { s.sec.fuses with rollback := max s.sec.fuses.rollback (min 64 s.image.rollback) })) ∧
     (s.sec.fuseOp = some .disableDebug → exec (.fuseOpDone true) s = .next (done { s.sec.fuses with debugDisable := true })))

/-- The flash commands of FALLOW begin when the part is not busy and their address is aligned (R383). A flash operation
that finishes runs on the address, length and data it began with: an erase leaves 4 KiB of 0xFF, a program of erased
bytes leaves the data, and no byte outside changes; a read gives the bytes (R383). -/
def Obligations.FlashIsWrittenInFallow : Prop :=
  (∀ s : State, s.mode = .fallow → s.pcieUp = true → s.flash.busy = false →
     let begun (op : Nat) : State := { s with flash := { s.flash with
       busy := true, error := false, op := op, opAddr := s.flash.addr, opLen := s.flash.len,
       opData := s.flash.data.take s.flash.len } }
     exec (.flashRead 0) s = .next (begun 1) ∧
     (s.flash.addr % 4096 = 0 → exec (.flashErase4k 0) s = .next (begun 2)) ∧
     (s.flash.addr % 256 = 0 → exec (.flashProgram 0) s = .next (begun 3))) ∧
  (∀ s : State, s.mode = .fallow → s.flash.busy = true → Memory.wf s = true →
     ∃ t, exec (.flashOpDone true) s = .next t ∧ t.flash.busy = false ∧ t = { s with flash := t.flash, free := t.free } ∧
       (s.flash.op = 2 → ∀ a, t.flashByte a =
         if s.flash.opAddr ≤ a ∧ a < s.flash.opAddr + 4096 then 0xFF else s.flashByte a) ∧
       (s.flash.op = 3 → (∀ a, s.flash.opAddr ≤ a → a < s.flash.opAddr + s.flash.opData.length → s.flashByte a = 0xFF) →
         ∀ a, t.flashByte a = if s.flash.opAddr ≤ a ∧ a < s.flash.opAddr + s.flash.opData.length then
           s.flash.opData.getD (a - s.flash.opAddr) 0 else s.flashByte a) ∧
       (s.flash.op = 1 → s.flash.opAddr + s.flash.opLen ≤ 0x800000 →
         (∀ a, t.flashByte a = s.flashByte a) ∧
         ∀ i < s.flash.opLen, t.flash.data.getD i 0 = s.flashByte (s.flash.opAddr + i)))

/-- ERR_CLEAR by the physical function: bit 0 sets every CAUSE and ERR_HEAD to 0, bit 1 forgets the first FATAL entry; a
port that is DOWN begins a new series of attempts under RETRAIN (R396, R373, R391). A corrected word is logged once
and its repeats are counted in the newest entry, which keeps its place (R371). -/
def Obligations.ErrorLogIsCountedAndCleared : Prop :=
  (∀ s : State, s.pcieUp = true →
     exec (.errClear 0) s = .next { s with err := { s.err with
       entries := s.err.entries.map fun e => { e with cause := 0 }, head := 0 } } ∧
     exec (.fatalClear 0) s = .next { s with aon := { s.aon with firstFatal := {} } } ∧
     (∀ p < 4, (s.port p).state = 0 → exec (.retrain 0 p) s =
       .next { s with ports := s.ports.modify p fun k => { k with state := 1, attempts := 0 } })) ∧
  (∀ (s : State) (off : Nat), s.started = true → s.err.entries.length = 256 → s.err.head < 256 →
     let last := (s.err.head + 255) % 256
     let n := s.err.entries.getD last {}
     ∃ t, exec (.sramCe 0x10 off) s = .next t ∧ t.mem = s.mem ∧ t.hops = s.hops ∧ t.pkts = s.pkts ∧
       (n.cause = 0x10 → n.unit = 0x10 → n.a = BitVec.ofNat 64 off →
         t.err.head = s.err.head ∧ t.err.lost = s.err.lost ∧
         t.err.entries = s.err.entries.set last { n with count := min (n.count + 1) 255, time := s.time }) ∧
       (n.cause ≠ 0x10 → t.err.head = (s.err.head + 1) % 256 ∧
         (t.err.entries.getD s.err.head {}).cause = 0x10 ∧ (t.err.entries.getD s.err.head {}).a = BitVec.ofNat 64 off ∧
         (∀ i < 256, i ≠ s.err.head → t.err.entries.getD i {} = s.err.entries.getD i {}) ∧
         t.err.lost = if (s.err.entries.getD s.err.head {}).cause = 0 then s.err.lost else s.err.lost + 1))

/-- A doorbell of an enabled Hopper that the function reaches sets HOP_TAIL, or HOP_CPL_HEAD and ends CPL_FULL; the write
ends a DEEP grant; an index beyond the ring is refused with DB_ERR; a disabled Hopper drops it (R51, R52, R56). -/
def Obligations.DoorbellsMoveTheirIndex : Prop :=
  ∀ (f h : Nat) (v : BitVec 32) (s : State), f < 16 → h < 256 → s.funcUp f = true → s.hopReach f h = true →
    ((s.hop h).en = true → v.toNat % 65536 < 2 ^ (s.hop h).cmdLog2 →
      exec (.doorbellTailWrite f h v) s = .next (s.withdraw.modHop h fun k => { k with tail := v.toNat % 65536 })) ∧
    ((s.hop h).en = true → v.toNat % 65536 < 2 ^ (s.hop h).cplLog2 → v.toNat % 65536 ≠ (s.hop h).cplHead →
      exec (.doorbellCplHeadWrite f h v) s =
        .next (s.withdraw.modHop h fun k => { k with cplHead := v.toNat % 65536, cplFull :=
          if v.toNat % 65536 = k.cplHead then k.cplFull else false })) ∧
    ((s.hop h).en = true → 2 ^ (s.hop h).cmdLog2 ≤ v.toNat % 65536 →
      ∃ t, exec (.doorbellTailWrite f h v) s = .next t ∧ t.hops = s.hops.modify h (fun k => { k with dbErr := true }) ∧
        t.mem = s.mem ∧ t.pkts = s.pkts) ∧
    ((s.hop h).en = false →
      exec (.doorbellTailWrite f h v) s = .next (s.withdraw.modHop h fun k => { k with dbDrop := true }))

/-- HOP_CTRL written by the physical function to a disabled, IDLE Hopper with EN and legal fields sets every field and EN
together; a nonce of Debug Open is void from then on (R49, R385, R364). -/
def Obligations.HopperIsEnabled : Prop :=
  ∀ (h : Nat) (v : BitVec 32) (s : State), h < 256 → s.sized = true → s.mode = .ready → s.pcieUp = true →
    (s.hop h).en = false → s.idle h = true → s.glb.lock = false → s.sec.hopLock = false → v.toNat % 2 = 1 →
    field v.toNat 2 1 ≠ 0 →
    6 ≤ field v.toNat 20 16 → field v.toNat 20 16 ≤ 16 → 6 ≤ field v.toNat 28 24 → field v.toNat 28 24 ≤ 16 →
    ∃ t, exec (.hopCtrlWrite 0 h v) s = .next t ∧
      t = ({ s with hops := t.hops, sec := { s.sec with nonceOk := false } } : State).noteAll ∧
      (∀ i < 256, i ≠ h → t.hop i = s.hop i) ∧
      t.hop h = { s.hop h with en := true, cls := field v.toNat 2 1, loc := bit v.toNat 3, stopOnErr := bit v.toNat 4,
                               errIrq := bit v.toNat 5, part := field v.toNat 10 8, func := field v.toNat 15 12,
                               cmdLog2 := field v.toNat 20 16, cplLog2 := field v.toNat 28 24, deferred := none }

/-- HOP_IRQ sets the vector, the time and the count (Table REG-12); IRQ_COALESCE_TIMEOUT raises the interrupt that is due
and counts afresh (R72); unmasking a vector sends its pending message. -/
def Obligations.InterruptsOfHoppers : Prop :=
  (∀ (f h : Nat) (v : BitVec 32) (s : State), f < 16 → h < 256 → s.funcUp f = true → s.hopReach f h = true →
    field v.toNat 10 0 < Config.msixTableSize → (s.hop h).irqSeen = 0 →
    exec (.hopIrqWrite f h v) s = .next (s.modHop h fun k => { k with
      irqVec := field v.toNat 10 0, irqTime := field v.toNat 21 12, irqCount := field v.toNat 29 22 })) ∧
  (∀ (h : Nat) (s : State), h < 256 → s.running = true → 0 < (s.hop h).irqSeen →
    s.msix.unmasked.contains ((s.hop h).func, (s.hop h).irqVec) = true →
    exec (.irqCoalesceTimeout h) s =
      .next ((s.emit (.msix (s.hop h).func (s.hop h).irqVec)).modHop h fun k => { k with irqSeen := 0 })) ∧
  (∀ (f v : Nat) (s : State), f < 16 → v < Config.msixTableSize → s.funcUp f = true → (f, v) ∈ s.msix.pending →
    (f, v) ∉ s.msix.unmasked →
    exec (.msixVectorUnmask f v) s = .next (({ s with msix := {
      unmasked := s.msix.unmasked ++ [(f, v)], pending := (s.msix.pending.filter fun x => x != (f, v)) } }).emit (.msix f v)))

/-! ### Packets -/

/-- The front packet of a Hopper that passes every check of its decoding and may be dispatched runs its opcode's body: its
time is taken at dispatch, its partition's sleep hint and a DEEP grant end, and an opcode that does nothing else at
decode leaves all other state as it was (R65, R162, R165, R169, R332, R334). -/
def Obligations.DispatchRunsTheOpcode : Prop :=
  ∀ (h : Nat) (o : OpBody) (s t : State) (q : Pkt), s.dispatched h o = some (q, t) →
    s.runPacket h o = o.body t q ∧
    ((∀ s p, o.atDecode s p = s) → ∃ p, s.front h = some p ∧ t = (s.decoded p).taken p ∧ t.pwr.deepGrant = false ∧
      t.mem = s.mem ∧ t.host = s.host ∧ t.ctxs = s.ctxs ∧ t.engines = s.engines ∧ t.hops = s.hops ∧
      q.id = p.id ∧ q.dw = p.dw ∧ q.time0 = s.time ∧ q.stage = .running ∧ t.pkt q.id = some q)

/-- A packet that ends without an error holds its reply and nothing else changes; one that raised a flag ends OK_FLAGS
(R63, R74). -/
def Obligations.GoodEndsHoldTheReply : Prop :=
  ∀ (s : State) (p : Pkt) (r0 r1 : Nat) (fl : Flags), s.pkt p.id = some p →
    ∃ q, (s.endPkt p.id .ok r0 r1 fl).pkt p.id = some q ∧ q.stage = .ended ∧ q.r0 = BitVec.ofNat 64 r0 ∧
      q.r1 = BitVec.ofNat 64 r1 ∧ q.flags = p.flags.or fl ∧
      q.status = (if (p.flags.or fl).any then .okFlags else .ok) ∧
      (∀ i, i ≠ p.id → (s.endPkt p.id .ok r0 r1 fl).pkt i = s.pkt i) ∧
      s.endPkt p.id .ok r0 r1 fl = { s with pkts := (s.endPkt p.id .ok r0 r1 fl).pkts }

/-- NOP, HERD_TIME, TIMESTAMP without an address, SR_SEED, FRAME_TICK without a mirror and FALLOW_EXIT: the state each
leaves and its reply (R167, R169, R170, R183, R186, R313, R350). A packet whose opcode is not in Table OPC-5 ends
BAD_OPCODE at decode (R74). -/
def Obligations.ControlPacketsReply : Prop :=
  (∀ (h : Nat) (s t : State) (q : Pkt), h < 256 →
     let reply (u : State) (r0 r1 : Nat) : Host.Outcome State Fault Refusal := .next (u.endPkt q.id .ok r0 r1).noteAll
     (s.dispatched h nopBody = some (q, t) → exec (.nop h) s = reply t (q.q 2) 0) ∧
     (s.dispatched h herdTimeBody = some (q, t) →
       exec (.herdTime h) s = reply t t.time.toNat (b2n t.herd.drift + 2 * b2n t.herd.formed)) ∧
     (s.dispatched h timestampBody = some (q, t) → bit (q.w 2) 0 = false →
       exec (.timestamp h) s = reply t q.time0.toNat (b2n t.herd.formed + 2 * b2n t.herd.drift)) ∧
     (s.dispatched h seedBody = some (q, t) → q.part < 8 → s.sized = true →
       exec (.srSeed h) s = reply t 0 0 ∧ (t.part q.part).seed = BitVec.ofNat 64 (q.q 2)) ∧
     (s.dispatched h frameTickBody = some (q, t) → q.part < 8 → s.sized = true → (t.part q.part).frameMirror = 0 →
       exec (.frameTick h) s =
         reply (t.modPart q.part fun k => { k with frameCount := k.frameCount + 1, frameTime := t.time })
           ((t.part q.part).frameCount + 1).toNat t.time.toNat) ∧
     (s.dispatched h fallowExitBody = some (q, t) →
       exec (.fallowExit h) s = reply t (t.aon.reason + 256 * t.aon.attempts) 0)) ∧
  (∀ (h : Nat) (s : State) (p : Pkt), h < 256 → s.running = true → s.front h = some p → p.stage = .fetched →
     s.mayDecode p = true → opInfo p.op = none →
     exec (.unlistedOpcode h) s = .next (s.endPkt p.id .badOpcode 0 0).noteAll)

/-- FENCE: without a wait it replies at once; a wait on host memory ends when the word has reached the threshold, and a
FENCE still short of it waits; FENCE_POLL reads the word again (R64, R168). -/
def Obligations.FencesWaitForTheirWord : Prop :=
  ∀ (h : Nat) (s t : State) (q : Pkt), h < 256 →
    (s.dispatched h fenceBody = some (q, t) → t.epochAhead q = false → bit (q.w 2) 0 = false → bit (q.w 2) 2 = false →
      let v := ofBytes (readCells 0 t.host (q.q 4) 4)
      (bit (q.w 2) 1 = false → exec (.fence h) s = .next (t.endPkt q.id .ok 0 0).noteAll) ∧
      (bit (q.w 2) 1 = true → bit (q.w 2) 3 = true →
        exec (.fence h) s = .next (if v < q.w 6 then t.modPkt q.id fun p => { p with wait := .fence v }
          else t.endPkt q.id .ok 0 v).noteAll)) ∧
    (∀ news : List Host.Cell, s.running = true → s.front h = some q → q.op = 0x02 → q.stage = .running →
      (s.hostNews news).epochAhead q = false → bit (q.w 2) 0 = false → bit (q.w 2) 1 = true → bit (q.w 2) 2 = false →
      bit (q.w 2) 3 = true →
      let u := s.hostNews news
      let v := ofBytes (readCells 0 u.host (q.q 4) 4)
      exec (.fencePoll h news) s = .next (if v < q.w 6 then u.modPkt q.id fun p => { p with wait := .fence v }
        else u.endPkt q.id .ok 0 v).noteAll)

/-- EPOCH_FENCE: the partition's unfenced engines hold nothing afterwards, its contexts there are gone, its epoch count
has grown by one and is the reply (R308, R309). -/
def Obligations.EpochFenceEmptiesThePartition : Prop :=
  ∀ (h : Nat) (s t : State) (q : Pkt), h < 256 → s.dispatched h epochBody = some (q, t) → q.part < 8 → t.sized = true →
    bit (q.w 2) 0 = false →
    ∃ u r, exec (.epochFence h) s = .next u ∧
      (u.part q.part).epochCount = (t.part q.part).epochCount + 1 ∧
      (∀ e ∈ t.unfenced q.part, (u.eng e).run = none ∧ (u.eng e).susp = none ∧ (u.eng e).banks = [] ∧
        (u.eng e).pages = []) ∧
      (∀ c ∈ u.ctxs, c.part = q.part → handleEngine c.handle ∉ t.unfenced q.part) ∧
      u.pkt q.id = some r ∧ r.stage = .ended ∧ r.r0 = BitVec.ofNat 64 ((t.part q.part).epochCount + 1).toNat ∧
      u.hops = t.hops ∧ u.host = t.host ∧ u.sec = t.sec ∧ u.aon = t.aon

/-- SLEEP_HINT: a target of IDLE is granted; DOZE and DEEP are granted when no reason against them holds, else the next
shallower state is, with the reasons; the hint then stands, and under DEEP both halves doze (R171, R332, R334). -/
def Obligations.SleepHintsAreAnswered : Prop :=
  ∀ (h : Nat) (s t : State) (q : Pkt), h < 256 → s.dispatched h sleepBody = some (q, t) →
    let hinted (g : Nat) : State := t.modPart q.part fun k => { k with hint := some (g, q.w 3) }
    let answer (g why : Nat) : Host.Outcome State Fault Refusal := .next ((hinted g).endPkt q.id .ok g why).noteAll
    (t.partEngines q.part = [] → exec (.sleepHint h) s = answer 0 0) ∧
    (t.partEngines q.part ≠ [] →
      (q.w 2 % 4 = 0 → exec (.sleepHint h) s = answer 1 0) ∧
      (q.w 2 % 4 = 1 → t.dozeReasons q = 0 → exec (.sleepHint h) s = answer 2 0) ∧
      (q.w 2 % 4 = 1 → t.dozeReasons q ≠ 0 → exec (.sleepHint h) s = answer 1 (t.dozeReasons q)) ∧
      (q.w 2 % 4 = 2 → t.deepReasons q ≠ 0 → t.dozeReasons q = 0 → exec (.sleepHint h) s = answer 2 (t.deepReasons q)) ∧
      (q.w 2 % 4 = 2 → t.dozeReasons q ≠ 0 → exec (.sleepHint h) s = answer 1 (t.deepReasons q)) ∧
      (q.w 2 % 4 = 2 → t.deepReasons q = 0 →
        exec (.sleepHint h) s = .next ((({ hinted 3 with
          pwr := { t.pwr with deepGrant := true, hintDuration := BitVec.ofNat 32 (q.w 3), westDoze := true, eastDoze := true },
          engines := t.engines.map fun g => { g with power := .doze } } : State)).endPkt q.id .ok 3 0).noteAll))

/-- ENGINE_FENCE waits for the segments of the engines it names, else fences them; ENGINE_UNFENCE returns the engines that
pass their self-test (R185, R22). DEBUG_ACC_READ writes the 8,192 bytes of the bank that BANK selects, working or
Tailrace, to its address and replies with their count; a bank that has held no tile since it was last zeroed gives
zeros; the banks stay as they are (R185, R367). -/
def Obligations.EnginesAreFencedAndRead : Prop :=
  (∀ (h : Nat) (s t : State) (q : Pkt), h < 256 → t.sized = true →
     (s.dispatched h engineFenceBody = some (q, t) →
       (∀ e < 8, bit (q.w 2) e = true → (t.eng e).run = none ∧ (t.eng e).susp = none) →
       ∃ u, exec (.engineFence h) s = .next u ∧ (∀ e < 8, bit (q.w 2) e = true → (u.eng e).fenced = true) ∧
         ∀ e < 8, bit (q.w 2) e = false → (u.eng e).fenced = (t.eng e).fenced) ∧
     (s.dispatched h (engineUnfenceBody 0) = some (q, t) →
       ∃ u, exec (.engineUnfence h 0) s = .next u ∧
         ∀ e < 8, (u.eng e).fenced = ((t.eng e).fenced && !bit (q.w 2) e))) ∧
  (∀ (h : Nat) (s t u : State) (q : Pkt), h < 256 → s.dispatched h accReadBody = some (q, t) →
     let e := field (q.w 2) 2 0
     let c := field (q.w 2) 9 3
     let b := t.bankBytes e c (bit (q.w 2) 10)
     b.length = 8192 ∧
     ((if bit (q.w 2) 10 then ((t.eng e).bank c).tMark else ((t.eng e).bank c).wMark) = none → b = List.replicate 8192 0) ∧
     (t.writeBytes { part := some q.part, pkt := some q.id } (q.a40 4) b = (none, u) →
       exec (.debugAccRead h) s = .next (u.endPkt q.id .ok 8192 0).noteAll ∧
       ∀ i k tail, u.bankBytes i k tail = t.bankBytes i k tail))

/-- Every item of CONFIG_SET takes its effect and replies 0 (R187). -/
def Obligations.ConfigItemsTakeEffect : Prop :=
  ∀ (h : Nat) (s t : State) (q : Pkt), h < 256 →
    let at_ (n : Nat) (offs : State → Pkt → List Off) (f : State → Pkt → State) : Prop :=
      s.dispatched h (itemBody n offs f) = some (q, t) ∧ q.item = n
    let done (u : State) : Host.Outcome State Fault Refusal := .next (u.endPkt q.id .ok 0 0).noteAll
    let p := q.w 3 % 8
    (at_ 1 mapOffs State.partitionMap →
      let u := t.partitionMap q
      let mask := field (q.w 3) 15 8
      exec (.partitionMap h) s = done u ∧
      (t.sized = true → (u.part p).mask = BitVec.ofNat 8 mask ∧ (u.part p).mapped = (mask != 0) ∧
        (mask ≠ 0 → (u.part p).func = field (q.w 3) 19 16) ∧
        (∀ e < 8, u.enginePart e = none → (u.eng e).power = .doze) ∧
        (∀ i < 8, i ≠ p → (u.part i).mask = (t.part i).mask ∧ (u.part i).func = (t.part i).func))) ∧
    (at_ 2 placementOffs State.itemRegs →
      exec (.placement h) s = done (t.modPart p fun k => { k with spread := bit (q.w 3) 8 })) ∧
    (at_ 3 stashOffsOf State.itemRegs →
      exec (.stashRegion h) s = done { t with
        mem := (t.placeCarve { base := q.a40 4, bytes := q.a40 6 } t.stashCarve).mem,
        regions := { t.regions with stashBase := q.a40 4, stashSize := q.a40 6 } }) ∧
    (at_ 4 overflowOffs State.itemRegs →
      exec (.overflowRegion h) s = done (t.modPart p fun k => { k with ovBase := q.a40 4, ovSize := q.a40 6 })) ∧
    (at_ 5 replayOffs State.itemRegs →
      exec (.replayBuffer h) s = done { t with
        mem := (t.placeCarve { base := q.a40 4, bytes := q.a40 6 } t.replayCarve).mem,
        replay := { t.replay with recs := [], used := 0 },
        regions := { t.regions with replayBase := q.a40 4, replaySize := q.a40 6 } }) ∧
    (at_ 6 reserveOffs State.itemRegs →
      exec (.checkpointReserve h) s = done { t with
        mem := (t.placeCarve { base := q.a40 4, bytes := 8 * 2 ^ 30 } t.ckptCarve).mem,
        regions := { t.regions with ckptBase := some (q.a40 4) }, train := { t.train with held := [], log := [] } }) ∧
    (at_ 7 paramOffs State.itemRegs → q.a40 6 ≠ 0 →
      exec (.paramRegion h) s = done { t with
        mem := (t.placeCarve { base := q.a40 4, bytes := 2 * q.a40 6 } t.paramCarve).mem,
        regions := { t.regions with paramBase := q.a40 4, paramSize := q.a40 6, pages := [] },
        train := { t.train with committed := 0, undoOk := false, undecided := false } }) ∧
    (at_ 8 flagOffs State.itemRegs →
      exec (.tickSource h) s = done (t.modPart p fun k => { k with tickPin := bit (q.w 3) 8 })) ∧
    (at_ 9 flagOffs State.itemRegs →
      exec (.pressureDemote h) s = done (t.modPart p fun k => { k with demoteEn := bit (q.w 3) 8 })) ∧
    (at_ 10 protectOffs State.protect →
      let r : Region := { enable := bit (q.w 3) 12, slot := field (q.w 3) 11 8, base := q.a40 4, size := q.a40 6 }
      exec (.protectedRegion h) s = done (t.protect q) ∧
      (t.protect q).sec = { t.sec with regions := t.sec.regions.set (q.w 3 % 16) r })

/-- A compute packet begins: its segments run over the unfenced engines of its partition, and the one row of a CTX_FEED is
held by its context on that context's engine (R66, R81). -/
def Obligations.ComputePacketsBegin : Prop :=
  ∀ (h : Nat) (s t : State) (q : Pkt), h < 256 →
    let begun : Host.Outcome State Fault Refusal :=
      .next (t.modPkt q.id fun p => { p with work := some { m := t.unfenced q.part } }).noteAll
    let at_ (op : Nat) : Prop := s.dispatched h (compBody op State.replayArmed) = some (q, t)
    (at_ opREDUCE → exec (.reduce h) s = begun) ∧ (at_ opSFN → exec (.sfnApply h) s = begun) ∧
    (at_ opEWISE → exec (.ewise h) s = begun) ∧ (at_ opSOFTMAX → exec (.softmax h) s = begun) ∧
    (at_ opLAYERNORM → exec (.layernorm h) s = begun) ∧ (at_ opRMSNORM → exec (.rmsnorm h) s = begun) ∧
    (at_ opSOFTMAX_BWD → exec (.softmaxBwd h) s = begun) ∧ (at_ opNORM_BWD → exec (.normBwd h) s = begun) ∧
    (at_ opCOPY → exec (.copy h) s = begun) ∧
    (s.dispatched h feedBody = some (q, t) →
      exec (.ctxFeed h) s = .next (t.modPkt q.id fun p => { p with
        work := some { m := t.unfenced q.part, rows := [({ row := 0, home := handleEngine q.handle, handle := some q.handle } : RowSt)] } }).noteAll)

/-- CTX_OPEN replies with the handle it has taken; CTX_QUERY replies with the result of its context as it stands and
leaves it; CTX_CLOSE replies with it and frees the context; a packet that waits for a slot takes one when
CTX_SLOT_FREED names an engine of its partition, and CTX_WAIT_LIMIT_EXPIRY ends it with CTX_EXHAUSTED (R76, R79, R82,
R83). -/
def Obligations.ContextsAreOpenedAndClosed : Prop :=
  ∀ (h : Nat) (s t : State) (q : Pkt), h < 256 →
    (s.dispatched h openBody = some (q, t) → exec (.ctxOpen h) s = .next (t.endPkt q.id .ok q.ctx 0 {} q.ctx).noteAll) ∧
    (∀ c : Ctx, t.ctx q.handle = some c → c.lost = false → (t.eng (handleEngine c.handle)).fenced = false → c.feeds = [] →
      c.record = none → c.herd = false →
      let x := t.closeResult q c
      let w := closeWords c x.1 x.2.1 x.2.2.2.1
      (s.dispatched h queryBody = some (q, t) → q.wait = .none → exec (.ctxQuery h) s =
        .next (t.draw.endPkt q.id .ok w.1 w.2 (stickyFlags c x.2.2.1 x.2.2.2.2) q.handle).noteAll) ∧
      (s.dispatched h closeBody = some (q, t) → q.wait = .none → bit (q.w 2) 0 = false → exec (.ctxClose h) s =
        .next ((t.draw.freeAll c.handle).endPkt q.id .ok w.1 w.2 (stickyFlags c x.2.2.1 x.2.2.2.2) q.handle).noteAll)) ∧
    (∀ (e p : Nat), e < 8 → s.running = true → s.enginePart e = some p → q.hop = h →
      (s.byClass p).find? (fun k => k.wait = .ctx && (k.stage = .decoded || k.stage = .running)) = some q →
      s.front h = some q → q.op = 0x10 → q.stage = .decoded → exec (.ctxSlotFreed e) s = .next (s.openTake q).noteAll) ∧
    (s.running = true → s.front h = some q → q.wait = .ctx → q.stage ≠ .ended →
      exec (.ctxWaitLimitExpiry h) s = .next (s.compFail q.id .ctxExhausted 0).noteAll)

/-- PREFETCH of sectors that are all valid replies at once; FLUSH_RANGE and INVAL_RANGE of a range within the partition's
ranges reply with their counts; INVAL_RANGE leaves no line of the range in an L1 of the partition (R220 to R222).
WINDOW_SET replies with what ENABLE was; with ENABLE it sets the whole window, without it ends the window, whose lines
are no longer persistent (R181, R214). -/
def Obligations.RangePacketsReply : Prop :=
  (∀ (h : Nat) (s t : State) (q : Pkt), h < 256 →
     (s.dispatched h prefetchBody = some (q, t) → t.firstBad q.part false (q.a40 4) (q.a40 6) = none → q.a40 6 = 32 →
       t.present (q.a40 4) = false →
       ∃ u f, exec (.prefetch h) s = .next u ∧ u.mem.flight = t.mem.flight ++ [f] ∧ f.addr = t.backing (q.a40 4) / 32 ∧
         f.sec = t.locOf (t.backing (q.a40 4)) / 32 ∧ f.pkt = some q.id ∧ (u.pkt q.id).map (·.wait) = some .drain ∧
         u.mem.hbm = t.mem.hbm ∧ u.mem.lines = t.mem.lines) ∧
     (s.dispatched h flushBody = some (q, t) → t.firstBad q.part false (q.a40 4) (q.a40 6) = none →
       ∃ u r, exec (.flushRange h) s = .next u ∧ u.hops = t.hops ∧ u.ctxs = t.ctxs ∧ u.sec = t.sec ∧
         u.pkt q.id = some r ∧ r.stage = .ended ∧ r.r1 = 0 ∧ r.r0 = BitVec.ofNat 64
           (t.mem.lines.filter fun l => t.covers l (q.a40 4) (q.a40 6) && l.isDirty).length) ∧
     (s.dispatched h invalBody = some (q, t) → bit (q.w 2) 0 = false → t.firstBad q.part false (q.a40 4) (q.a40 6) = none →
       t.sized = true →
       ∃ u, exec (.invalRange h) s = .next u ∧ u.mem = t.mem ∧ u.hops = t.hops ∧ u.ctxs = t.ctxs ∧
         ∀ e ∈ t.partEngines q.part, ∀ x ∈ (u.eng e).l1, ∀ l ∈ t.mem.lines, l.line = x.line →
           t.covers l (q.a40 4) (q.a40 6) = false)) ∧
  (∀ (h : Nat) (s t : State) (q : Pkt), h < 256 → s.dispatched h windowBody = some (q, t) → t.sized = true →
     let n := q.w 2 % 16
     ∃ u : State, exec (.windowSet h) s = .next (u.endPkt q.id .ok (b2n (t.wins.getD n {}).enable) 0).noteAll ∧
       u = { t with wins := u.wins, mem := u.mem } ∧ u.mem.hbm = t.mem.hbm ∧
       (bit (q.w 2) 12 = true → u.wins = t.wins.set n { t.wins.getD n {} with
         base := q.a40 4, size := q.a40 6, enable := true, cls := field (q.w 2) 5 4, quota := field (q.w 2) 11 8,
         demoted := false, part := q.part }) ∧
       (bit (q.w 2) 12 = false → (u.wins.getD n {}).enable = false ∧ ∀ l ∈ u.mem.lines, l.win ≠ some n))

/-- STASH_SAVE and STASH_LOAD run to their reply: elements and bytes, or the first poisoned sector (R227, R235, R236). -/
def Obligations.StashPacketsReply : Prop :=
  ∀ (h : Nat) (s t : State) (q : Pkt), h < 256 →
    (s.dispatched h saveBody = some (q, t) →
      ∃ u r, exec (.stashSave h) s = .next u ∧ u.pkt q.id = some r ∧ r.stage = .ended ∧
        (r.status = .ok ∨ r.status = .okFlags ∨ r.status = .eccUncorr) ∧
        (r.status ≠ .eccUncorr → r.r1 = BitVec.ofNat 64 ((tdesc q 0 .tensor).len * (tdesc q 0 .tensor).rows)) ∧
        u.hops = t.hops ∧ u.sec = t.sec ∧ u.aon = t.aon) ∧
    (s.dispatched h loadBody = some (q, t) →
      ∃ u r, exec (.stashLoad h) s = .next u ∧ u.pkt q.id = some r ∧ r.stage = .ended ∧
        (r.status = .ok ∨ r.status = .okFlags ∨ r.status = .eccUncorr) ∧
        (r.status ≠ .eccUncorr → r.r0 = BitVec.ofNat 64 ((tdesc q 0 .tensor).len * (tdesc q 0 .tensor).rows)) ∧
        u.hops = t.hops ∧ u.sec = t.sec ∧ u.aon = t.aon)

/-- REPLAY_ARM arms or stops a recording; REPLAY_COUNT_REACHED ends it once COUNT packets are recorded; REPLAY_RUN replies
with the number of packets it has replayed (R266 to R268). -/
def Obligations.ReplayRecordsAndRuns : Prop :=
  ∀ (h : Nat) (s t : State) (q : Pkt), h < 256 →
    (s.dispatched h armBody = some (q, t) → bit (q.w 2) 0 = false →
      exec (.replayArm h) s = .next (({ t with replay := { armed := some (q.hop, q.w 3, q.part), part := q.part } }).endPkt
        q.id .ok (q.w 3) 0).noteAll) ∧
    (s.dispatched h armBody = some (q, t) → bit (q.w 2) 0 = true →
      exec (.replayArm h) s = .next (({ t with replay := { t.replay with armed := none } }).endPkt q.id .ok 0 0).noteAll) ∧
    (∀ (x n p : Nat), s.replay.armed = some (x, n, p) → n ≤ s.replay.recs.length →
      exec .replayCountReached s = .next ({ s with replay := { s.replay with armed := none } }).noteAll) ∧
    (s.dispatched h runBody = some (q, t) →
      ∃ u r, exec (.replayRun h) s = .next u ∧ u.pkt q.id = some r ∧ r.stage = .ended ∧ u.hops = t.hops ∧
        u.train = t.train ∧ u.herd = t.herd ∧ (r.status ≠ .eccUncorr → r.r0 = BitVec.ofNat 64 t.replay.recs.length))

/-! ### Training, herd and collective packets -/

/-- UPDATE_STEP waits while a CHECKPOINT has still to send a page it writes (R263); else it runs to its reply: it leaves
COMMITTED_STEP, gives up UNDO and records its step (R245 to R249, R254). ROLLBACK_STEP to COMMITTED_STEP clears every
PENDING bit; to the step before it returns COMMITTED_STEP to that step; the reply is the step then in force (R184,
R255). -/
def Obligations.StepsAreUpdatedAndRolledBack : Prop :=
  (∀ (h : Nat) (s t : State) (q : Pkt), h < 256 → s.dispatched h updateBody = some (q, t) →
     (t.updWaits (updOf q) = true → ∃ u, exec (.updateStep h) s = .next u ∧ u.pkts = t.pkts ∧ u.mem = t.mem ∧
       u.regions = t.regions ∧ u.train.committed = t.train.committed ∧ u.train.undoOk = false) ∧
     (t.updWaits (updOf q) = false → ∃ u r, exec (.updateStep h) s = .next u ∧ u.pkt q.id = some r ∧ r.stage = .ended ∧
       (r.status = .ok ∨ r.status = .okFlags ∨ r.status = .eccUncorr) ∧ u.train.committed = t.train.committed ∧
       u.train.undoOk = false ∧ u.hops = t.hops ∧ u.sec = t.sec ∧
       (r.status ≠ .eccUncorr → r.r0 = BitVec.ofNat 64 (q.a40 6) ∧ r.r1 = BitVec.ofNat 64 (q.q 12) ∧
         u.train.last = t.train.last.set q.part (some (BitVec.ofNat 64 (q.q 12)))))) ∧
  (∀ (h : Nat) (s t : State) (q : Pkt), h < 256 → s.dispatched h rollbackBody = some (q, t) →
     ∃ u r, exec (.rollbackStep h) s = .next u ∧ u.pkt q.id = some r ∧ r.stage = .ended ∧ r.r0 = BitVec.ofNat 64 (q.q 2) ∧
       u.train.committed = BitVec.ofNat 64 (q.q 2) ∧ (∀ x ∈ u.regions.pages, pgPending x.2 = false) ∧ u.mem = t.mem ∧
       (u.train.committed ≠ t.train.committed → u.train.undoOk = false))

/-- COMMIT_STEP without a herd asks its twin to log the step; a member of a herd that does not lead it sends READY; either
way the packet waits and nothing is committed yet (R256, R257). The leader counts its own READY; without a twin or a
herd the packet ends with HERD_TIMEOUT (12 R345). -/
def Obligations.CommitStepWaits : Prop :=
  ∀ (h : Nat) (s t : State) (q : Pkt), h < 256 → s.dispatched h commitBody = some (q, t) →
    let step := BitVec.ofNat 64 (q.q 2)
    (t.herd.formed = false → t.noTwin = false →
      ∃ u, exec (.commitStep h) s = .next u ∧ u.train.commit = some { pkt := some q.id, step := step, token := t.token step } ∧
        u.train.lastLog = some .provisional ∧ u.train.committed = t.train.committed ∧ u.mem = t.mem ∧
        u.pkts = t.pkts.map (fun p => if p.id = q.id then { p with wait := .herd } else p)) ∧
    (t.herd.formed = false → t.noTwin = true →
      ∃ u r, exec (.commitStep h) s = .next u ∧ u.train = t.train ∧ u.mem = t.mem ∧ u.pkt q.id = some r ∧ r.stage = .ended ∧
        r.status = .herdTimeout ∧ u.herd.failOp = 0x51 ∧ u.herd.failStep = step) ∧
    (t.herd.formed = true → t.isLeader = true → exec (.commitStep h) s = .next
      (((t.modPkt q.id fun p => { p with wait := .herd }).setCommit (some { pkt := some q.id, step := step })).onReady
        t.herd.self step).noteAll) ∧
    (t.herd.formed = true → t.isLeader = false →
      ∃ u, exec (.commitStep h) s = .next u ∧ u.train.commit = some { pkt := some q.id, step := step } ∧
        u.train.committed = t.train.committed ∧ u.mem = t.mem ∧ u.herd = t.herd ∧
        u.pkts = t.pkts.map (fun p => if p.id = q.id then { p with wait := .herd } else p))

/-- CHECKPOINT sends its pages one by one and waits, and is given up when a page cannot be read; RESTORE asks the holder
at decode and waits; once answered it takes the pages that have come (R261, R265). -/
def Obligations.CheckpointAndRestoreWait : Prop :=
  ∀ (h : Nat) (s t : State) (q : Pkt), h < 256 →
    (∀ (c : CkptRun) (pg : Nat) (gen : Bool) (rest : List (Nat × Bool)),
      s.dispatched h ckptBody = some (q, t) → t.noTwin = false → t.train.ckpt = some c → c.todo = (pg, gen) :: rest →
      let r := (t.sendOwed.modPkt q.id fun p => { p with wait := .herd }).rawRead (evictSrc q.id) 2050
        (t.paramCopy gen (t.regions.paramBase + pg * 65536)) 65536
      ∃ u, exec (.checkpoint h) s = .next u ∧ u.mem = r.2.2.mem ∧ u.train.committed = t.train.committed ∧ u.herd = t.herd ∧
        u.train.ckpt = (if r.2.1.isNone then some { c with todo := rest, sent := c.sent ++ [pg] } else none)) ∧
    (s.dispatched h ckptBody = some (q, t) → t.noTwin = true → ∃ u r, exec (.checkpoint h) s = .next u ∧ u.mem = t.mem ∧
      u.regions = t.regions ∧ u.pkt q.id = some r ∧ r.stage = .ended ∧ r.status = .herdTimeout ∧ u.herd.failOp = 0x58) ∧
    (∀ p : Pkt, s.running = true → s.front h = some p → s.pkt p.id = some p → p.op = 0x59 → p.stage = .fetched →
      p.wait = .none → s.mayDecode p = true →
      (s.decodeView p).judge p 1 { offs := (s.decodeView p).restoreOffs p } = none → s.noTwin = false →
      ∃ u r, exec (.restore h) s = .next u ∧ u.pkt p.id = some r ∧ r.stage = .decoded ∧ r.wait = .herd ∧ u.mem = s.mem ∧
        u.train = { s.train with restore := some { pkt := p.id, member := p.w 2 % 64, step := BitVec.ofNat 64 (p.q 4) } }) ∧
    (∀ r : RestoreRun, s.running = true → s.front h = some q → s.pkt q.id = some q → q.op = 0x59 → q.stage = .decoded →
      q.wait = .none → s.mayDispatch q = true → s.train.restore = some r → r.early = [] →
      ∃ u x, exec (.restore h) s = .next u ∧ u.pkt q.id = some x ∧ x.stage = .running ∧ x.wait = .herd ∧
        u.train = s.train ∧ u.mem = s.mem)

/-- HERD_FORM whose manifest is sound and names this device begins a formation and waits while a port it uses is not
ready, one that names another device ends it with HERD_MISMATCH; HERD_LEAVE dissolves the herd and replies (R286 to
R289, R293). A collective of a herd joins the others of its place: it tells every member (log 111) and keeps its own
join until every member's has come; the packet waits, and only the leader lets it go (R241, R244). -/
def Obligations.HerdPacketsTakeEffect : Prop :=
  (∀ (h : Nat) (s t : State) (q : Pkt), h < 256 →
     (∀ (hd es : List (BitVec 8)) (v w : State) (e : Entry), s.dispatched h formBody = some (q, t) → t.noTwin = false →
       t.readBytes { part := some q.part, pkt := some q.id } (q.a40 4) 64 = (hd, none, v) →
       v.readBytes { part := some q.part, pkt := some q.id } (q.a40 4 + 64) (32 * min (byteAt hd 1 1) 64) = (es, none, w) →
       manifestOk (hd ++ es) (field (q.w 2) 14 8) = true →
       findEntry (entriesOf (hd ++ es)) (q.w 2 % 64) = some e →
       w.portsReady (entriesOf (hd ++ es)) (q.w 2 % 64) = false →
       (e.serial = Config.serial → ∃ u, exec (.herdForm h) s = .next u ∧ u.herd.formed = w.herd.formed ∧ u.mem = w.mem ∧
         (u.herd.forming.map fun f => (f.pkt, f.self, f.part, f.bytes)) =
           some (q.id, q.w 2 % 64, q.w 6 % 8, hd ++ es) ∧
         u.pkts = w.pkts.map fun p => if p.id = q.id then { p with wait := .herd } else p) ∧
       (e.serial ≠ Config.serial → ∃ u r, exec (.herdForm h) s = .next u ∧ u.herd.formed = w.herd.formed ∧ u.herd.forming = none ∧
         u.pkt q.id = some r ∧ r.stage = .ended ∧ r.status = .herdMismatch ∧ r.r0 = 0xC ∧
         r.r1 = BitVec.ofNat 64 (q.w 2 % 64))) ∧
     (s.dispatched h leaveBody = some (q, t) → t.herd.formed = true → t.herd.colls = [] → t.herd.closes = [] →
       t.train.commit = none →
       ∃ u r, exec (.herdLeave h) s = .next u ∧ u.herd.formed = false ∧ u.herd.dissolved = true ∧ u.mem = t.mem ∧
         u.ctxs = t.ctxs ∧ u.pkt q.id = some r ∧ r.stage = .ended)) ∧
  (∀ (h : Nat) (s t : State) (q : Pkt) (c : Coll), h < 256 → t.coll q.id = some c →
     let waits : State := t.modPkt q.id fun p => { p with wait := .herd }
     let fs := collFields q c.gather
     let at_ (o : OpBody) (cmd : Instr) : Prop := s.dispatched h o = some (q, t) →
       exec cmd s = .next ((waits.sendAll 1 t.herd.members "JOIN" ([b2n c.gather, c.k, t.herd.self] ++ fs)).onJoin
         c.gather c.k t.herd.self fs).noteAll ∧
       (t.isLeader = false → ∃ u, exec cmd s = .next u ∧ u.pkts = waits.pkts ∧ u.mem = t.mem ∧
         u.herd = { t.herd with joins := u.herd.joins } ∧ (c.gather, c.k, t.herd.self, fs) ∈ u.herd.joins)
     at_ (redBody 0x48) (.bucketReduce h) ∧ at_ (redBody 0x4A) (.reduceScatter h) ∧ at_ gatherBody (.shardGather h))

/-! ### Fetch, reply, registers, memory -/

/-- PACKET_FETCH takes the next packet of the Hopper that is served next: its dwords are those of the ring, the head moves
past its units, and nothing else of that Hopper changes (R55, R57, R58). -/
def Obligations.FetchTakesThePacket : Prop :=
  ∀ (news : List Host.Cell) (s : State) (h : Nat), s.running = true → s.pwr.pme = false → s.sized = true →
    let u := s.hostNews news
    (∀ i < 256, u.hasPacket i = true → (u.hop i).cplFree ≠ 0) → u.nextHopper = some h → (u.hop h).loc = false →
    let k := u.hop h
    let n := u.frontUnits k
    ∃ t p, exec (.packetFetch news) s = .next t ∧ t.pkts = s.pkts ++ [p] ∧
      p.id = s.nextId ∧ p.hop = h ∧ p.cls = k.cls ∧ p.part = k.part ∧ p.func = k.func ∧ p.stage = .fetched ∧
      p.status = .ok ∧ p.dw.length = 16 * n ∧
      (∀ i < 16 * n, p.dw.getD i 0 = BitVec.ofNat 32 (ofBytes (readCells 0 u.host
        (k.cmdBase.toNat + 64 * ((k.head + i / 16) % 2 ^ k.cmdLog2) + 4 * (i % 16)) 4))) ∧
      t.hop h = { k with head := (k.head + n) % 2 ^ k.cmdLog2 } ∧ (∀ i, i ≠ h → t.hop i = s.hop i) ∧
      t.host = u.host ∧ t.mem = s.mem ∧ t.ctxs = s.ctxs

/-- PACKET_COMPLETE of a packet that has ended without an error writes its 32 reply bytes at the completion ring's tail,
moves the tail, toggles the phase at the ring's end, sets CPL_FULL with the last free entry, counts it, and takes the
packet away; no other byte of host memory changes; RESULT_1 of an EPOCH_FENCE is the time since its dispatch (R56,
R63, R70, R71, R311). -/
def Obligations.RepliesAreWritten : Prop :=
  ∀ (h : Nat) (env : StartEnv) (s : State) (p : Pkt), h < 256 → s.sized = true → s.running = true → s.front h = some p →
    p.stage = .ended → p.status.good = true → p.op ≠ 0x71 → p.recd = false → s.writesDone p = true →
    (s.hop h).loc = false → (s.hop h).deferred = none → Memory.wf s = true →
    let k := s.hop h
    let a := k.cplBase.toNat + 32 * k.cplTail
    let b := replyBytes (if p.op = 0x03 then { p with r1 := s.time - p.time0 } else p) k.phase s.time
    let tail := (k.cplTail + 1) % 2 ^ k.cplLog2
    ∃ t, exec (.packetComplete h env) s = .next t ∧ b.length = 32 ∧
      (∀ x, t.hostByte x = if a ≤ x ∧ x < a + 32 then b.getD (x - a) 0 else s.hostByte x) ∧
      (t.hop h).cplTail = tail ∧ (t.hop h).phase = (if tail = 0 then !k.phase else k.phase) ∧
      (t.hop h).done = k.done + 1 ∧
      (t.hop h).cplFull = (k.cplFull || decide (({ k with cplTail := tail } : Hopper).cplFree = 0)) ∧ (∀ i, i ≠ h → t.hop i = s.hop i) ∧
      t.pkts = s.pkts.filter (fun x => x.id != p.id) ∧
      t = ({ s with host := t.host, hops := t.hops, pkts := t.pkts, out := t.out, msix := t.msix } : State).noteAll

/-- Registers written by the physical function take their value: GLB_LOCK is set by 1, GRANULE_OWN sets eight owners,
PRESSURE_LIMIT restarts the monitor's window, CTX_PEAK takes the value; of a 64-bit register the low dword waits for
the high one (R375, R378, R386, R388). -/
def Obligations.RegistersTakeTheirValue : Prop :=
  ∀ s : State, s.pcieUp = true →
    (∀ v : BitVec 32, bit v.toNat 0 = true → exec (.glbLockSet 0 v) s = .next { s with glb := { s.glb with lock := true } }) ∧
    (∀ (p : Nat) (v : BitVec 32), p < 8 → exec (.pressureLimitWrite 0 p v) s =
      .next (s.modPart p fun q => { q with limit := v.toNat % 256, accesses := 0, misses := 0 })) ∧
    (∀ (e : Nat) (v : BitVec 32), e < 8 → exec (.ctxPeakWrite 0 e v) s =
      .next (s.modEng e fun g => { g with peak := v.toNat % 2 ^ 14 })) ∧
    (∀ (d : Nat) (v : BitVec 32), d < 12 → s.mem.owner.length = 96 → s.tenantsOff = true →
      (∀ p < 8, (s.part p).spread = false) → (∀ i < 8, s.mem.owner.getD (8 * d + i) 0xF ≠ 0xE) →
      (∀ i < 8, field v.toNat (4 * i + 3) (4 * i) < 8 ∨ field v.toNat (4 * i + 3) (4 * i) = 0xF) →
      ∃ t, exec (.granuleOwnWrite 0 d v) s = .next t ∧ t = { s with mem := { s.mem with owner := t.mem.owner } } ∧
        (∀ i < 8, t.mem.owner.getD (8 * d + i) 0xF = field v.toNat (4 * i + 3) (4 * i)) ∧
        ∀ g < 96, g / 8 ≠ d → t.mem.owner.getD g 0xF = s.mem.owner.getD g 0xF) ∧
    (∀ (p : Nat) (v : BitVec 64), p < 8 → exec (.registerWrite 0 (0x110 + 0x20 * p) false true v) s =
      .next ({ s with glb := { s.glb with lowWrites :=
        (s.glb.lowWrites.filter fun (y : Nat × Nat × BitVec 32) => !(y.1 = 0 && y.2.1 = 0x110 + 0x20 * p)) ++
          [(0, 0x110 + 0x20 * p, BitVec.ofNat 32 (v.toNat % 2 ^ 32))] } }).noteAll) ∧
    (∀ (p : Nat) (v : BitVec 64) (w : BitVec 32), p < 8 →
      s.glb.lowWrites.find? (fun y => y.1 = 0 && y.2.1 = 0x110 + 0x20 * p) = some (0, 0x110 + 0x20 * p, w) →
      exec (.registerWrite 0 (0x114 + 0x20 * p) false true v) s =
        .next (({ s with glb := { s.glb with lowWrites :=
          (s.glb.lowWrites.filter fun y => !(y.1 = 0 && y.2.1 = 0x110 + 0x20 * p)) } }).modPart p fun q => { q with
            frameMirror := BitVec.ofNat 64 (field (w.toNat + v.toNat % 2 ^ 32 * 2 ^ 32) 39 2 * 4) }).noteAll)

/-- Reading the low dword of a 64-bit register latches the high one, which the function's next read of it gives; an
aligned read of 8 bytes gives both dwords at once, and drops what was latched; an offset without a register reads 0
(R375, R376). -/
def Obligations.ReadsLatchTheHighDword : Prop :=
  ∀ (f off : Nat) (s : State), f < 16 → off < 2 ^ 24 → s.funcUp f = true →
    (∀ w : BitVec 32, s.glb.highReads.find? (fun y => y.1 = f && y.2.1 = off) = some (f, off, w) →
      exec (.lowDwordRead f (.dword off)) s = .next ((s.modGlb fun x => { x with
        highReads := x.highReads.filter fun y => !(y.1 = f && y.2.1 = off) }).emit (.regRead f (BitVec.ofNat 64 w.toNat)))) ∧
    (∀ r : RegView, s.glb.highReads.find? (fun y => y.1 = f && y.2.1 = off) = none → s.regAt f off = some (r, false) →
      r.wide = true → r.rd = true →
      exec (.lowDwordRead f (.dword off)) s = .next ((s.modGlb fun x => { x with
        highReads := (x.highReads.filter fun y => !(y.1 = f && y.2.1 = off + 4)) ++
          [(f, off + 4, BitVec.ofNat 32 (r.val / 2 ^ 32))] }).draw.emit (.regRead f (BitVec.ofNat 64 (r.val % 2 ^ 32))))) ∧
    (s.glb.highReads.find? (fun y => y.1 = f && y.2.1 = off) = none → s.regAt f off = none →
      exec (.lowDwordRead f (.dword off)) s = .next (s.emit (.regRead f 0))) ∧
    (∀ r : RegView, off % 8 = 0 → s.regAt f off = some (r, false) → s.regAt f (off + 4) = some (r, true) → r.rd = true →
      r.val < 2 ^ 64 →
      exec (.lowDwordRead f (.wide off)) s = .next ((s.modGlb fun x => { x with
        highReads := x.highReads.filter fun y => !(y.1 = f && y.2.1 = off + 4) }).draw.emit
          (.regRead f (BitVec.ofNat 64 r.val))))

/-- BAR2 in FALLOW is the Fallow window: a read gives its bytes, a write changes exactly the bytes it covers. Elsewhere a
read of bytes the function does not reach gives all ones, a poisoned write changes nothing but the report, and a write
of one sector that is reached goes through L2 (into an overflow frame in use it leaves its contexts' results open)
(R195, R349, R358, R372, R428). -/
def Obligations.Bar2ReachesMemory : Prop :=
  ∀ s : State, s.pcieUp = true →
    (∀ off len : Nat, s.mode = .fallow → off + len ≤ fallowSize → ∃ t, exec (.bar2Read 0 off len) s = .next t ∧
      t = ({ s with mem := { s.mem with barMark := s.mem.fills }, free := s.free + 1,
                    out := .bar2Data 0 (readCells 0 s.fallow off len) false :: s.out } : State).noteAll) ∧
    (∀ (off : Nat) (bs : List (BitVec 8)), s.mode = .fallow → off + bs.length ≤ fallowSize → Memory.wf s = true →
      ∃ t, exec (.bar2Write 0 off bs false) s = .next t ∧ t = ({ s with fallow := t.fallow } : State).noteAll ∧
        ∀ a, readCell 0 t.fallow a = if off ≤ a ∧ a < off + bs.length then bs.getD (a - off) 0 else readCell 0 s.fallow a) ∧
    (∀ f off len : Nat, f < 16 → s.funcUp f = true → s.mode ≠ .fallow → 0 < len → off % 32 + len ≤ 32 → off + len ≤ 2 ^ 36 →
      s.bar2Reach f false (s.bar2Addr f off) = false →
      exec (.bar2Read f off len) s =
        .next (((s.modMem fun m => { m with barMark := m.fills }).draw.emit (.bar2Data f (List.replicate len 0xFF) false)).noteAll)) ∧
    (∀ (f off : Nat) (bs : List (BitVec 8)), f < 16 → s.funcUp f = true → off + bs.length ≤ 2 ^ 36 →
      exec (.bar2Write f off bs true) s = .next (s.emit (.aer f 0x10)).noteAll) ∧
    (∀ (f off : Nat) (bs : List (BitVec 8)) (t : State), f < 16 → s.funcUp f = true → s.mode ≠ .fallow → bs ≠ [] →
      off % 32 + bs.length ≤ 32 → off + bs.length ≤ 2 ^ 36 → s.bar2Reach f true (s.bar2Addr f off) = true →
      (s.spoilAt (s.bar2Addr f off)).writeSector {} (s.backing (s.bar2Addr f off) / 32) (off % 32) bs = (true, t) →
      exec (.bar2Write f off bs false) s = .next (t.bar2Dirty (s.bar2Addr f off)).noteAll)

/-- SEGMENT_DISPATCH puts the first segment that the partition's packets offer on an idle engine, with the 32 lowest free
pages as its staging; SEGMENT_END takes a segment whose tiles are all drained off it, and a suspended one resumes
(R55, R66, R67, R123, R196). TILE_COMPLETE runs the next tile of the engine's segment on a cluster whose banks are
ready, that waits for no pending entry and has not run its 256 tiles of the segment, unless an URGENT segment waits to
suspend it; TAILRACE_DRAIN_DONE counts a tile; CARRY_NODE_ARRIVAL takes up the oldest result that a combine unit may
take, and PENDING_ENTRY_FREED returns a waiting one when the pending area has room (R66, R67, R85 to R94). -/
def Obligations.SegmentsAndTilesMove : Prop :=
  (∀ (e : Nat) (s : State), e < 8 → s.sized = true → s.running = true →
     (∀ (p : Nat) (c : Comp) (g : Seg) (w : Work), s.enginePart e = some p → (s.eng e).fenced = false → (s.eng e).stopping = false →
       (s.eng e).power ≠ .doze → (s.eng e).power ≠ .deep → (s.eng e).run = none → (s.eng e).susp = none → 32 ≤ (s.eng e).freePages →
       ((s.byClass p).findSome? fun q => s.segFor e q) = some (c, g, w) →
       ∃ t, exec (.segmentDispatch e) s = .next t ∧ (t.eng e).run = some { g with pages := (s.eng e).freeList.take 32 } ∧
         (t.eng e).susp = none ∧ (t.eng e).power = .active ∧ (∀ i, i ≠ e → t.eng i = s.eng i) ∧
         t = ({ s with engines := t.engines, pkts := t.pkts } : State).noteAll) ∧
     (∀ g : Seg, (s.eng e).run = some g → g.left = 0 → (s.eng e).banks = [] →
       ∃ t, exec (.segmentEnd e) s = .next t ∧ (t.eng e).run = (s.eng e).susp ∧ (t.eng e).susp = none ∧
         (∀ i, i ≠ e → t.eng i = s.eng i) ∧ t.mem = s.mem ∧ t.hops = s.hops ∧
         ∀ i, i ≠ g.pkt → t.pkt i = s.pkt i)) ∧
  (∀ (e cl : Nat) (s : State), e < 8 → cl < 128 → s.sized = true → s.running = true →
     (∀ (g : Seg) (pt : Nat) (p : Pkt) (c : Comp), (s.eng e).run = some g → s.enginePart e = some pt → s.pkt g.pkt = some p →
       s.compOf p = some c → (s.eng e).fenced = false → g.left ≠ 0 → ((s.eng e).bank cl).ready (s.noOverlap e) = true →
       s.clusterWaits e cl = false → g.ranOn cl < 256 * (if c.tiles > 64 then 1 else c.rowPasses) →
       (g.urgent = true ∨ (s.eng e).susp ≠ none ∨ s.urgentFor e pt = false) →
       (s.work p.id).rowReady g.row g.pass = true →
       exec (.tileComplete e cl) s = .next (s.runTile e cl g p c).noteAll) ∧
     (∀ t : TileOut, ((s.eng e).bank cl).drains = some t →
       ∃ u, exec (.tailraceDrainDone e cl) s = .next u ∧ (u.eng e).tilesDone = (s.eng e).tilesDone + 1 ∧
         ∀ i, i ≠ e → (u.eng i).tilesDone = (s.eng i).tilesDone) ∧
     (∀ m : NodeMsg, (s.eng e).inbox.find? s.msgReady = some m →
       exec (.carryNodeArrival e) s = .next (s.absorbMsg e m).noteAll ∧
       (s.pkt m.pkt = none → exec (.carryNodeArrival e) s =
         .next (s.modEng e fun x => { x with inbox := x.inbox.erase m }).noteAll)) ∧
     (∀ (m : NodeMsg) (r : List NodeMsg), (s.eng e).blocked = m :: r → s.pendingUsed e < 2048 →
       exec (.pendingEntryFreed e) s = .next (s.modEng e fun x => { x with blocked := r, inbox := m :: x.inbox }).noteAll))

/-- An eviction notice whose epoch is the line's clears the presence bit, a stale one does not (R217); a back-invalidate
takes the line and its fill out of the L1 and answers, and the answer clears the bit (R218). L1_FILL installs the
oldest fill: a new line takes its place as the most recent one; the line of its set that it displaces, the one the
event names or the least recent of a full set (log 108), sends a notice with its epoch (R202, R217). -/
def Obligations.CachesFollowTheirMessages : Prop :=
  (∀ (e : Nat) (s : State), e < 8 →
     (∀ (line : Nat) (ep : BitVec 2) (r : List (Nat × BitVec 2)), (s.eng e).notices = (line, ep) :: r →
       exec (.evictionNotice e) s = .next ((s.modEng e fun g => { g with notices := r }).modMem fun m => { m with
         lines := m.lines.map fun l => if l.line = line then
           (if l.epoch = ep then { l with pres := l.pres &&& ~~~ BitVec.ofNat 8 (2 ^ e) } else l) else l })) ∧
     (∀ (x : Nat × Option Nat) (r : List (Nat × Option Nat)), (s.eng e).binv = x :: r →
       exec (.backInvalidate e) s = .next (s.modEng e fun g => { g with
         binv := r, answers := g.answers ++ [x], l1 := g.l1.filter (fun y => y.line != x.1),
         fills := g.fills.filter fun y => y.line != x.1 })) ∧
     (∀ (x : Nat × Option Nat) (r : List (Nat × Option Nat)), (s.eng e).answers = x :: r →
       exec (.backInvalidateAnswer e) s = .next ((s.modEng e fun g => { g with answers := r }).modMem fun m => { m with
         lines := m.lines.map fun l => if l.line = x.1 then { l with pres := l.pres &&& ~~~ BitVec.ofNat 8 (2 ^ e) } else l }))) ∧
  (∀ (e : Nat) (s : State) (x : L1Line) (r : List L1Line), e < 8 → (s.eng e).fills = x :: r →
     (s.eng e).l1.find? (fun y => y.line = x.line) = none →
     let set := (s.eng e).l1.filter fun y => l1Set y.line = l1Set x.line
     let displaced (y : L1Line) : State := s.modEng e fun g => { g with
       fills := r, l1 := (g.l1.filter fun z => z.line != y.line) ++ [x], notices := g.notices ++ [(y.line, y.epoch)] }
     (set.length < 8 → exec (.l1Fill e none) s = .next (s.modEng e fun g => { g with fills := r, l1 := g.l1 ++ [x] })) ∧
     (∀ y : L1Line, 8 ≤ set.length → set.head? = some y → exec (.l1Fill e none) s = .next (displaced y)) ∧
     (∀ y : L1Line, set.find? (fun z => z.line = y.line) = some y → exec (.l1Fill e (some y.line)) s = .next (displaced y)))

/-- A record page that moves out is written to its frame through L2 with EVICT_FIRST, stands there and is counted; one
that moves in is read from its frame, stands in its page, its frame is free again, and it is counted; what a frame
with a poisoned sector held is lost (R198, R199, R207). The end of a monitor window: one above the limit raises the
count and the second in a row the pressure flag; one at or below it starts the count again; under PRESSURE_DEMOTE the
partition's SHARED windows are demoted (R215). -/
def Obligations.PagesAndPressureAreCounted : Prop :=
  (∀ (e : Nat) (s : State), e < 8 → s.running = true →
     (∀ (r : RecPage) (f : Nat), (s.eng e).move = some (.out r.id f) → (s.eng e).pages.find? (fun x => x.id = r.id) = some r →
       let u := (s.writeBytes { part := some r.part, hint := .evictFirst, commons := true }
         ((s.part r.part).ovBase + 65536 * f) (s.frameImage r)).2.draw
       exec (.pageOut e) s = .next (((u.modEng e fun g => { g with
         move := none, pages := g.pages.map fun x => if x.id = r.id then { x with at_ := .frame f } else x }).modPart r.part
           fun q => { q with pageOuts := q.pageOuts + 1 })).noteAll) ∧
     (∀ (r : RecPage) (f n : Nat), (s.eng e).move = some (.into r.id n) →
       (s.eng e).pages.find? (fun x => x.id = r.id) = some r → r.at_ = .frame f → r.part < 8 → s.sized = true →
       let u := s.readBytes { part := some r.part, hint := .evictFirst, commons := true } ((s.part r.part).ovBase + 65536 * f) 65536
       let v := if u.2.1.isSome then u.2.2.spoilPage r else u.2.2
       exec (.pageIn e) s = .next (((v.modEng e fun g => { g with
         move := none, pages := g.pages.map fun x => if x.id = r.id then { x with at_ := .resident n } else x }).modPart r.part
           fun q => { q with frames := (q.frames.filter fun x => x != f), pageIns := q.pageIns + 1 })).noteAll)) ∧
  (∀ (p : Nat) (s : State) (high : Bool) (r : List Bool), p < 8 → s.sized = true → (s.part p).closed = high :: r →
     let q := s.part p
     let n := if high then min 2 (q.above + 1) else 0
     (n ≠ 2 ∨ q.demoteEn = false → exec (.pressureWindowEnd p) s = .next (s.modPart p fun q => { q with
       closed := r, above := n, pressure := q.pressure || n = 2 }).noteAll) ∧
     (n = 2 → q.demoteEn = true → ∃ t, exec (.pressureWindowEnd p) s = .next t ∧ (t.part p).pressure = true ∧
       ∀ i < 16, (s.wins.getD i {}).enable = true → (s.wins.getD i {}).part = p → (s.wins.getD i {}).cls = 1 →
         (t.wins.getD i {}).cls = 2 ∧ (t.wins.getD i {}).demoted = true))

/-- DRAM_WRITE_DONE stores the oldest sector on its way: its 32 bytes and its poison, and no other byte (R205, R209). A
read that returns fills its sector where L2 holds the line without it; one that finds the sector filled by a read is a
duplicate, counted for its partition, and writes the sector again only where no sector of the line is dirty and its
WRITTEN bit is clear; a refresh that meets an uncorrectable word poisons the sector and logs it (R216, R226). -/
def Obligations.DramIsWrittenAndRead : Prop :=
  (∀ (s : State) (w : WriteBack) (r : List WriteBack), s.mem.wq = w :: r → Memory.wf s = true →
     ∃ t, exec .dramWriteDone s = .next t ∧ t = { s with mem := t.mem } ∧ t.mem.wq = r ∧ t.mem.lines = s.mem.lines ∧
       ∀ a, t.hbmByte a = if w.sec * 32 ≤ a ∧ a < w.sec * 32 + 32 then (sectorBytes w.data).getD (a - w.sec * 32) 0
         else s.hbmByte a) ∧
  (∀ s : State, s.running = true →
     -- the sector of f with what DRAM holds
     let filled (u : State) (f : Flight) : State := (u.modLine (f.sec / 4) fun l => { l with secs := l.secs.modify (f.sec % 4) fun y =>
       { y with valid := true, dirty := false, filled := true, no := u.mem.fills, who := 9, poison := (u.dramRead f.addr).2,
                data := (u.dramRead f.addr).1 } }).modMem fun m => { m with fills := m.fills + 1 }
     (∀ (i : Nat) (f : Flight) (l : L2Line), s.mem.flight[i]? = some f → f.pkt = none → s.findLine (f.sec / 4) = some l →
       (l.secs.getD (f.sec % 4) {}).valid = false →
       let u := s.modMem fun m => { m with flight := m.flight.eraseIdx i }
       exec (.hbmReadReturn i .ok) s = .next ((filled (if f.hint = .evictFirst then u else u.hitLine (f.sec / 4)) f).noteAll)) ∧
     (∀ (i p : Nat) (f : Flight) (l : L2Line), s.mem.flight[i]? = some f → f.pkt = none → f.part = some p →
       s.findLine (f.sec / 4) = some l → (l.secs.getD (f.sec % 4) {}).valid = true → (l.secs.getD (f.sec % 4) {}).filled = true →
       let u := (s.modMem fun m => { m with flight := m.flight.eraseIdx i }).modPart p fun q =>
         { q with dupFill := q.dupFill + 1 }
       exec (.hbmReadReturn i .ok) s = .next (
         (if (l.secs.getD (f.sec % 4) {}).written = true ∨ (∃ y ∈ l.secs, y.valid = true ∧ y.dirty = true) then u
         else filled u f).noteAll)) ∧
     (∀ loc : Nat, loc < hbmSize / 32 → exec (.hbmRefresh loc .ok) s = .next s ∧
       ∃ t, exec (.hbmRefresh loc .uncorrectable) s = .next t ∧ loc ∈ t.mem.poison ∧ t.mem.hbm = s.mem.hbm ∧
         t.mem.lines = s.mem.lines ∧ t.hops = s.hops ∧ t.pkts = s.pkts))

/-! ### Power, start, errors, pins -/

/-- Engines that finish their idle delay, halves that doze, a dozing half that wakes for a ready segment, a stack's
self-refresh: each event with its condition changes its power state and nothing else (R330 to R333, Table PWR-4). -/
def Obligations.PowerStatesChange : Prop :=
  ∀ s : State, s.mode = .ready →
    (∀ e < 8, (s.eng e).quiet = true → (s.eng e).power = .active →
      exec (.idleDelayExpiry e) s = .next (s.modEng e fun g => { g with power := .idle })) ∧
    (∀ h < 2, s.mayDoze h = true → ∃ t, exec (.dozeEntry h) s = .next t ∧ t.dozes h = true ∧
      t = { s with pwr := t.pwr, engines := t.engines } ∧
      (∀ e < 8, e / 4 = h → t.eng e = { s.eng e with power := .doze } ∨ s.engines.length ≤ e) ∧
      (∀ e < 8, e / 4 ≠ h → t.eng e = s.eng e)) ∧
    (∀ h < 2, s.dozes h = true → s.pwr.deepGrant = false → s.halfWanted h = true →
      ∃ t, exec (.dozeWake h) s = .next t ∧ t.dozes h = false ∧
      t = { s with pwr := t.pwr, engines := t.engines, mem := t.mem } ∧ t.mem.hbm = s.mem.hbm ∧ t.mem.lines = s.mem.lines ∧
      (∀ e < 8, e / 4 ≠ h → t.eng e = s.eng e)) ∧
    (∀ h < 2, s.halfWanted h = false → exec (.dozeWake h) s = .next s) ∧
    (∀ k < 4, s.dozes (k / 2) = true → exec (.selfRefreshEntry k) s =
      .next (s.modMem fun m => { m with selfRefresh := m.selfRefresh.set k true }))

/-- SENSOR_SAMPLE below the trip point sets the governing reading and the power estimate, a stack at 95 °C counting as a
junction at 105 °C; at 115 °C the device powers down, within 10 s of READY as a failed start. Throttling lowers the
clocks by a sixteenth down to 4/16 while a cause holds; when all have cleared it raises the code the next clock needs,
then the clock; PROCHOT_N sets 4/16 at once. The code a clock needs is free (log 54) (R338, R339, R347, R407, R409). -/
def Obligations.SensorsThrottleAndTrip : Prop :=
  ∀ s : State, s.mode = .ready →
    (∀ (die stack : Int) (w : Nat), (if stack ≥ 760 then max die 840 else die) < 920 →
      ∃ t : State, exec (.sensorSample die stack w) s = .next t.noteAll ∧
        t = { s with pwr := { s.pwr with tempMax := if stack ≥ 760 then max die 840 else die, power := w },
                     aon := { s.aon with alert := t.aon.alert } } ∧
        (s.pwr.tempMax < 840 → 840 ≤ t.pwr.tempMax → t.aon.alert.getLsbD 0 = true)) ∧
    (∀ (die stack : Int) (w : Nat), 920 ≤ die → s.pwr.tempMax < 920 ∨ s.pwr.trip = false →
      ∃ t : State, exec (.sensorSample die stack w) s = .next t.noteAll ∧ t.pwr.trip = true ∧ t.pins.failOut = true ∧
        t.mem.hbm = s.mem.hbm ∧ (∀ k ∈ t.hops, k.en = false) ∧ t.pkts = [] ∧
        (s.aon.within10s = false → t.mode = .dead ∧ t.aon.attempts = s.aon.attempts) ∧
        (s.aon.within10s = true → t.mode = (if s.aon.attempts + 1 ≥ 3 then .fallow else .hold) ∧
          t.aon.attempts = min (s.aon.attempts + 1) 255 ∧ t.aon.reason = 6)) ∧
    (s.throttles = true → ∃ t : State, exec .throttleStep s = .next t ∧
      t = { s with pwr := t.pwr, engines := t.engines, mem := t.mem } ∧ t.mem.hbm = s.mem.hbm ∧ t.mem.lines = s.mem.lines ∧
      t.pwr.sixteenths = max 4 (s.pwr.sixteenths - 1) ∧ t.pwr.vid ≤ s.pwr.vid + 1 ∧ s.pwr.vid ≤ t.pwr.vid + 1) ∧
    (s.throttles = false → s.mayRise = true → s.pwr.sixteenths < 16 → s.vidNeed (s.pwr.sixteenths + 1) ≤ s.pwr.vid →
      ∃ t : State, exec .throttleStep s = .next t ∧ t = { s with pwr := t.pwr, engines := t.engines, mem := t.mem } ∧
        t.mem.hbm = s.mem.hbm ∧ t.mem.lines = s.mem.lines ∧ t.pwr.sixteenths = s.pwr.sixteenths + 1 ∧ t.pwr.vid = s.pwr.vid) ∧
    (s.throttles = false → s.mayRise = true → s.pwr.sixteenths < 16 → s.pwr.vid < s.vidNeed (s.pwr.sixteenths + 1) →
      exec .throttleStep s = .next { s with pwr := { s.pwr with vid := s.pwr.vid + 1 } }) ∧
    (s.throttles = false → s.mayRise = false ∨ 16 ≤ s.pwr.sixteenths → ∃ t : State, exec .throttleStep s = .next t ∧
      t = { s with pwr := { s.pwr with vid := t.pwr.vid } } ∧ t.pwr.vid ≤ s.pwr.vid + 1 ∧ s.pwr.vid ≤ t.pwr.vid + 1) ∧
    (∃ t : State, exec .prochotAssert s = .next t ∧
      t = { s with pwr := t.pwr, engines := t.engines, mem := t.mem, pins := { s.pins with prochot := true } } ∧
      t.mem.hbm = s.mem.hbm ∧ t.mem.lines = s.mem.lines ∧ t.pwr.sixteenths = 4) ∧
    exec .prochotDeassert s = .next { s with pins := { s.pins with prochot := false } } ∧
    (∃ t : State, exec .telemetrySample s = .next t ∧ t = { s with aon := { s.aon with samples := t.aon.samples } } ∧
      t.aon.samples.head? = some (s.pwr.tempMax, s.pwr.power % 65536))

/-- Supplies: a fault powers the device down, and it starts again only once PERST_N has cycled with every supply in range;
VDD_AON loss is OFF, keeping flash, fuses and host memory; the island waits after its power-up until it is ready, and
its SMBus address is then latched; a lost engine PLL fences its half's engines, any other halts the device (R327 to
R329, R351, R370, R415; the code driven in OFF is the model's, log 54). -/
def Obligations.SuppliesComeAndGo : Prop :=
  ∀ s : State,
    (s.mode = .ready → ∃ t : State, exec .supplyFault s = .next t.noteAll ∧ t.mode = .dead ∧ t.aon.attempts = s.aon.attempts ∧
      t.pwr.supplyFault = true ∧ t.mem.hbm = s.mem.hbm ∧ t.pkts = [] ∧ t.pins.failOut = true) ∧
    (∀ env : StartEnv, s.mode = .inReset → s.pwr.supplyFault = true → env.supplies = false →
      exec (.perstNDeassert env) s = .next ({ s with mode := .dead } : State).noteAll) ∧
    (∃ t : State, exec .vddAonLoss s = .next t.noteAll ∧ t.mode = .off ∧ t.flash.cells = s.flash.cells ∧
      t.sec.fuses = s.sec.fuses ∧ t.host = s.host ∧ t.mem.hbm = [] ∧ t.aon.attempts = 0 ∧ t.aon.debugOpened = false ∧
      t.aon.training = none ∧ t.pending = s.pending) ∧
    (s.mode = .off → exec .vddAonPowerUp s = .next ({ s with mode := .aonWait } : State).noteAll) ∧
    (∀ straps : BitVec 2, s.mode = .aonWait → s.aon.perstPending = false →
      ∃ t : State, exec (.aonReady straps none) s = .next t.noteAll ∧ t.mode = .inReset ∧ t.pins.failOut = true ∧
        t.aon.smbAddr = 0x5C + BitVec.ofNat 8 straps.toNat ∧ t.flash = s.flash ∧ t.mem = s.mem) ∧
    (s.mode ≠ .off → exec .aonXtalFail s = .next { s with
      aon := { s.aon with xtalFail := true, alert := s.aon.alert ||| 0x10 } }) ∧
    (∀ i < 2, s.mode = .ready → s.dozes i = false → s.sized = true →
      ∃ u : State, exec (.pllLoss i) s = .next (s.judgeTwin u).noteAll ∧ u.mode = .ready ∧
        (∀ e < 8, e / 4 = i → (u.eng e).fenced = true) ∧ (∀ e < 8, e / 4 ≠ i → (u.eng e).fenced = (s.eng e).fenced)) ∧
    (∀ i < 9, 2 ≤ i → s.mode = .ready → s.aon.within10s = false →
      ∃ u : State, exec (.pllLoss i) s = .next (s.judgeTwin u).noteAll ∧ u.mode = .halted ∧ u.pins.failOut = true ∧
        (∀ k ∈ u.hops, k.halted = true))

/-- PERST_N asserted resets the device, or under PME_Turn_Off after a DEEP grant sends it to DEEP; deasserted it starts
the device, which is READY when every step of the start passes and in FALLOW under BOOT_SEL 3; a failed start counts
and holds, with the detail of the first slot check that fails; 10 s of READY clear the count (R342, R344 to R349). -/
def Obligations.ResetsStartTheDevice : Prop :=
  ∀ s : State,
    (s.mode = .ready → s.pwr.pme = false → ∃ t : State, exec .perstNAssert s = .next t.noteAll ∧ t.mode = .inReset ∧
      t.mem.hbm = s.mem.hbm ∧ t.pins.failOut = true ∧ t.pkts = [] ∧ t.ctxs = [] ∧ (∀ k ∈ t.hops, k.en = false) ∧
      t.aon.attempts = s.aon.attempts) ∧
    (s.mode = .ready → s.pwr.pme = true → exec .perstNAssert s =
      .next ({ s with mode := .deep, pins := { s.pins with failOut := true } } : State).noteAll) ∧
    (∀ env : StartEnv, env.bootSel % 4 ≠ 3 →
      s.mode = .inReset ∧ s.pwr.trip = false ∧ (s.pwr.supplyFault = false ∨ env.supplies = true) ∨ s.mode = .hold →
      let go : Instr := if s.mode = .hold then .resetHoldExpiry env else .perstNDeassert env
      let fused : State := { s with sec := { s.sec with inForce := s.sec.fuses } }
      (∀ row : Nat, env.fuseBad = some row → s.aon.attempts < 2 → ∃ t : State, exec go s = .next t.noteAll ∧ t.mode = .hold ∧
        t.aon.attempts = s.aon.attempts + 1 ∧ t.aon.reason = 8 ∧ t.aon.detail = BitVec.ofNat 32 row) ∧
      (∀ d : Nat, env.fuseBad = none → env.pllBad = none → fused.chooseSlot (env.bootSel % 4) = .inr d → s.aon.attempts < 2 →
        ∃ t : State, exec go s = .next t.noteAll ∧ t.mode = .hold ∧ t.aon.attempts = s.aon.attempts + 1 ∧ t.aon.reason = 4 ∧
          t.aon.detail = BitVec.ofNat 32 d) ∧
      (∀ slot : Bool, env.fuseBad = none → env.pllBad = none → env.bistBad = none → env.hbmBad = none → env.crash = none →
        s.pwr.tempMax < 840 → (s.loadImage slot).twinDiffers env.twin = 0 →
        fused.chooseSlot (env.bootSel % 4) = .inl slot →
        ∃ t : State, exec go s = .next t.noteAll ∧ t.mode = .ready ∧ t.image.slotB = slot ∧ t.sec.inForce = s.sec.fuses ∧
          t.pins.failOut = false ∧ t.aon.within10s = true ∧ t.aon.attempts = s.aon.attempts ∧ t.aon.training.isSome = true ∧
          t.pwr.twinAbsent = !(s.loadImage slot).twinPasses env.twin ∧ (∀ k ∈ t.hops, k.en = false) ∧ t.pkts = [] ∧
          t.mem = {})) ∧
    (∀ env : StartEnv, s.mode = .inReset → s.pwr.trip = false → s.pwr.supplyFault = false ∨ env.supplies = true →
      env.bootSel % 4 = 3 → ∃ t : State, exec (.perstNDeassert env) s = .next t.noteAll ∧ t.mode = .fallow ∧
        t.aon.reason = 0 ∧ t.fallow = []) ∧
    (s.mode = .ready → s.aon.within10s = true → exec .bootAttemptsClear s =
      .next { s with aon := { s.aon with attempts := 0, within10s := false } })

/-- Configuration requests are answered with retry status in the reset hold and with the IDs once the device is up;
PME_Turn_Off is acknowledged; a Function Level Reset of a virtual function or of the physical one resets its Hoppers
and drops their packets without a reply (R335, R344, R346). -/
def Obligations.PcieEventsAreAnswered : Prop :=
  ∀ s : State,
    (∀ f < 16, ∀ i : CfgItem, s.mode = .hold → exec (.configRequest f i) s = .next (s.emit (.config f none))) ∧
    (s.pcieUp = true → exec (.configRequest 0 .deviceId) s = .next (s.emit (.config 0 (some 0x0880))) ∧
      exec (.configRequest 0 .revisionId) s = .next (s.emit (.config 0 (some 0xB1)))) ∧
    (s.pcieUp = true → s.pwr.deepGrant = false → exec .pmeTurnOff s = .next (s.emit .pmeAck).noteAll) ∧
    (∀ f : Nat, 0 < f → f < 16 → s.funcUp f = true → s.sized = true → ∃ t, exec (.flrVf f) s = .next t ∧
      (∀ h < 256, (s.hop h).func = f → t.hop h = { cls := 2 }) ∧ (∀ h < 256, (s.hop h).func ≠ f → t.hop h = s.hop h) ∧
      (∀ p ∈ t.pkts, (s.hop p.hop).func ≠ f) ∧ (∀ x ∈ t.msix.unmasked, x.1 ≠ f) ∧ t.mode = s.mode) ∧
    (s.funcUp 0 = true → s.sized = true → ∃ t, exec .flrPf s = .next t ∧ (∀ h < 256, t.hop h = { cls := 2 }) ∧
      t.pkts = [] ∧ t.glb.lock = false ∧ t.msix = {} ∧ t.herd.formed = false ∧ t.mode = s.mode)

/-- Errors of the arrays: an engine's uncorrectable word fences it; a fatal one, or a stop of Miller, halts the device
once the first 10 s of READY have passed; a clean L2 sector is fetched again, a dirty one poisoned; an AON key slot
hit is erased. Each is logged with its cause (R368 to R371, Tables SEC-6 and SEC-9). -/
def Obligations.ErrorsAreContained : Prop :=
  ∀ s : State, s.mode = .ready → s.sized = true → s.err.entries.length = 256 → s.err.head < 256 →
    let newest (t : State) : ErrEntry := t.err.entries.getD ((t.err.head + 255) % 256) {}
    (∀ (e off : Nat) (a : EngineArray), e < 8 → ∃ u t : State, exec (.engineUe e off a) s = .next t.noteAll ∧
      t = u.fenceEngine e (arrayCause a) ∧ (newest u).cause = 0x12 ∧ (newest u).unit = e ∧
      (newest u).a = BitVec.ofNat 64 off ∧ u = { s with err := u.err, aon := u.aon, msix := u.msix, out := u.out } ∧
      (t.eng e).fenced = true ∧ t.mode = .ready) ∧
    (s.aon.within10s = false →
      let halts (c : Instr) (good : ErrEntry → Prop) : Prop := ∃ t : State, exec c s = .next t.noteAll ∧ t.mode = .halted ∧
        t.pins.failOut = true ∧ (∀ k ∈ t.hops, k.halted = true) ∧ (s.pkts = [] → good (newest t))
      (∀ (u off : Nat), u = 0x10 ∨ u = 0x11 ∨ u = 0x40 → halts (.fatalSram u off) fun x => x.cause = 0x17 ∧ x.unit = u) ∧
      (∀ pc : BitVec 64, halts (.millerWatchdogExpiry (.watchdog pc)) fun x => x.cause = 0x29 ∧ x.a = pc) ∧
      (∀ code : BitVec 64, halts (.millerWatchdogExpiry (.stateCheck code)) fun x => x.cause = 0x2A ∧ x.a = code)) ∧
    (∀ (a : Nat) (x : L2Sec), a < hbmSize → s.l2Sector a = some x → x.valid = true →
      (x.dirty = true → ∃ t, exec (.l2Poison a) s = .next t ∧ t.mem.hbm = s.mem.hbm ∧
        (t.l2Sector a).map (·.poison) = some true ∧ (newest t).cause = 0x13) ∧
      (x.dirty = false → ∃ t, exec (.cacheRefetch .l2 a) s = .next t ∧ t.mem.hbm = s.mem.hbm ∧
        (t.l2Sector a).map (·.data) = some (s.dramRead (a / 32)).1 ∧ (newest t).cause = 0x11)) ∧
    (∀ n off : Nat, n < 16 → n < s.sec.slots.length → ∃ t, exec (.aonUe (.keySlot n) off) s = .next t ∧
      t.sec.slots.getD n {} = (s.sec.slots.getD n {}).erased ∧ (newest t).cause = 0x14 ∧
      (∀ r ∈ t.sec.regions, r.slot = n → r.enable = false))

/-- MGT_GPIO_5: a rise ticks every partition whose source is PIN, one too soon after the last is merged; a whole second of
herd time sends the 1PPS pulse while it holds the pin. TWIN_HB_OUT toggles, and its rising edge sends a logical twin
its KEEPALIVE (the moment within the period is the model's, log 110); an edge of the heartbeat and a release of
TWIN_FAIL_IN are taken (R281, R297, R300, R314, R317). The verdict on the twin after a change of its inputs: LOST
while TWIN_FAIL_IN is asserted, or while the armed heartbeat is absent and port 0 is not UP; a verdict that becomes
LOST raises its alert (R283). -/
def Obligations.PinsAndTwinVerdict : Prop :=
  (∀ s : State, s.mode = .ready →
     (s.ppsHolds = false → exec (.mgtGpio5Rise true) s =
       .next ({ s with glb := { s.glb with tickMerged := s.glb.tickMerged + 1 } } : State).noteAll) ∧
     (s.ppsHolds = false → s.sized = true → ∃ t, exec (.mgtGpio5Rise false) s = .next t ∧ ∀ p < 8, (t.part p).frameCount =
       if (s.part p).tickPin then (s.part p).frameCount + 1 else (s.part p).frameCount) ∧
     (s.ppsHolds = true → s.herd.drift = false → exec .ppsSecond s = .next (s.emit .pps)) ∧
     (let t : State := { s with pins := { s.pins with hbOut := !s.pins.hbOut } }
      exec .twinHbOutToggle s =
         .next (if !s.pins.hbOut && s.logicalPair then t.send 0 s.herd.twinId "KEEPALIVE" [] else t).noteAll) ∧
     (s.pins.failIn = false → exec .heartbeatEdge s = .next ({ s with
       pins := { s.pins with hbIn := true }, herd := { s.herd with hbInForce := s.herd.hbTimeout },
       verdictLost := false } : State).keepAliveLost.noteAll) ∧
     (s.pwr.hbArmed = false → exec .twinFailInRelease s = .next ({ s with
       pins := { s.pins with failIn := false }, verdictLost := false } : State).keepAliveLost.noteAll)) ∧
  (∀ s : State, s.mode = .ready →
     (∃ t, exec .twinFailInAssert s = .next t ∧ t.pins.failIn = true ∧ t.verdictLost = true ∧
       (s.verdictLost = false → t.aon.alert.getLsbD 3 = true)) ∧
     (∃ t, exec .heartbeatTimeout s = .next t ∧ t.pins.hbIn = false ∧
       t.verdictLost = (s.pins.failIn || (s.pwr.hbArmed && !portUp (s.port 0))) ∧
       (s.verdictLost = false → t.verdictLost = true → t.aon.alert.getLsbD 3 = true)))

/-! ### Ports and herd -/

/-- A numbered flit in sequence is accepted and acknowledged, one with a bad CRC is counted and dropped; a NAK and a
timeout send the kept flits again; sixteen resends, or a lost lock, retrain the port; training brings it UP, a third
failed attempt leaves it DOWN; LINK_ID records the far end (R272, R275, R276, R280). -/
def Obligations.PortsKeepTheirOrder : Prop :=
  ∀ (p : Nat) (s : State), p < 4 → s.mode = .ready → s.sized = true →
    let k := s.port p
    (portUp k = true → ∀ fl : List (BitVec 8), fl.length = 256 → crc32 (fl.take 252) ≠ BitVec.ofNat 32 (byteAt fl 252 4) →
      exec (.flitReceive p fl) s = .next (s.modPort p fun k => { k with crcCnt := k.crcCnt + 1 }).noteAll) ∧
    (portUp k = true → ∀ fl : List (BitVec 8), fl.length = 256 → crc32 (fl.take 252) = BitVec.ofNat 32 (byteAt fl 252 4) →
      byteAt fl 0 1 = 1 → byteAt fl 1 1 % 4 ≠ 3 → byteAt fl 2 2 % 4096 = k.expected → byteAt fl 8 1 = 0xFF → k.waiting = [] →
      bit (byteAt fl 4 2) 12 = false →
      ∃ t : State, exec (.flitReceive p fl) s = .next t.noteAll ∧ t = { s with ports := t.ports, out := t.out } ∧
        (t.port p).expected = (k.expected + 1) % 4096 ∧ (t.port p).state = k.state ∧
        ∃ wire, t.out = .null p k.expected false (byteAt fl 1 1 % 4) 1 wire :: s.out) ∧
    (portUp k = true → ∀ ack < 4096, ∃ t : State, exec (.nakReceive p ack) s = .next t.noteAll ∧
      t = { s with ports := t.ports, out := t.out } ∧ (t.port p).kept = k.kept.filter (fun f => !seqLe f.seq ack) ∧
      t.out.length = s.out.length + (t.port p).kept.length) ∧
    (portUp k = true → ∃ t : State, exec (.ackTimeout p) s = .next t.noteAll ∧
      t = { s with ports := t.ports, out := t.out } ∧ (t.port p).kept = k.kept ∧
      t.out.length = s.out.length + k.kept.length) ∧
    (portUp k = true → 16 ≤ k.resends → ∃ t, exec (.resendLimit p) s = .next t ∧ (t.port p).state = 1 ∧
      (t.port p).retrainCnt = k.retrainCnt + 1) ∧
    (portUp k = true → ∃ t, exec (.blockLockLoss p) s = .next t ∧ (t.port p).state = 1 ∧
      (t.port p).retrainCnt = k.retrainCnt + 1) ∧
    (k.state = 1 → ∀ pol : BitVec 4, ∃ t, exec (.portTrainingDone p { lanesFailed := 0, polarity := pol }) s = .next t ∧
      (t.port p).state = 2 ∧ (t.port p).attempts = 0 ∧ (t.port p).polarity = pol) ∧
    (k.state = 1 → ∃ t, exec (.trainingTimeout p) s = .next t ∧
      (t.port p).state = (if k.attempts ≥ 2 then 0 else 1) ∧ (t.port p).attempts = k.attempts + 1) ∧
    (k.state ≠ 0 → ∀ info : LinkInfo, info.port < 4 → s.herd.forming = none → s.pwr.twinAbsent = false →
      ∃ t, exec (.linkId p info) s = .next t ∧ (t.port p).far = some info ∧ (t.port p).farPort = info.port ∧
        (t.port p).state = k.state)

/-- Events of a formed herd: a lost member is in the lost map, a takeover gives the spare its ID, RECOVER bars the herd
or, without a step, leaves it stranded, DISSOLVE ends it, the offset of a SYNC is kept and drift judged by it and a
child's SYNC is answered, KEEPALIVE is heard and its timeout ends only a logical twin without a route (R284, R293,
R295, R297 to R301). An OFFER is kept until a formation needs it; a formation past its TIMEOUT whose ports are not all
ready ends with HERD_TIMEOUT (R287, R289). -/
def Obligations.HerdEventsTakeEffect : Prop :=
  (∀ s : State, s.mode = .ready → s.herd.formed = true →
     (∀ x < 64, s.canLose x = true → s.isLeader = false → s.herd.leader ≠ x → s.herd.deviceOf x < 64 → s.train.ckpt = none →
       ∃ t : State, exec (.memberLost x) s = .next t.noteAll ∧ t.herd.lost.getLsbD x = true ∧
         t.herd.lost.getLsbD (s.herd.deviceOf x) = true ∧ t.herd.event.getLsbD 0 = true ∧ t.mem = s.mem ∧ t.ctxs = s.ctxs ∧
         t.herd.leader = s.herd.leader) ∧
     (∀ lost spare, lost < 64 → spare < 64 → (s.herd.entry lost).isSome = true → (s.herd.entry spare).isSome = true →
       ∃ t : State, exec (.takeover lost spare) s = .next t.noteAll ∧ t.herd.spareMap = s.herd.spareMap.set lost spare ∧
         t.herd.retired = s.herd.retired ++ [spare] ∧ t.herd.event.getLsbD 1 = true ∧
         (s.herd.deviceOf lost < 64 → t.herd.lost.getLsbD (s.herd.deviceOf lost) = true) ∧
         t.herd.self = (if s.herd.device = spare then lost else s.herd.self) ∧ t.mem = s.mem) ∧
     (s.isLeader = false → ∀ step : Option (BitVec 64), ∃ t : State, exec (.recover (.heard step)) s = .next t.noteAll ∧
       t.herd.recoveryStep = step.getD s.herd.recoveryStep ∧ t.herd.recoveryValid = step.isSome ∧
       t.herd.stranded = step.isNone ∧ (step.isSome = true → t.herd.barred = true) ∧ t.herd.event.getLsbD 6 = true ∧
       t.mem = s.mem ∧ t.train = s.train) ∧
     (s.isLeader = true → ∀ known, ∃ t : State, exec (.recover (.decided known)) s = .next t.noteAll ∧
       t.herd.recoveryStep = (s.recoveryPlan known).getD s.herd.recoveryStep ∧
       t.herd.recoveryValid = (s.recoveryPlan known).isSome ∧ t.herd.stranded = (s.recoveryPlan known).isNone ∧
       t.mem = s.mem ∧ t.train = s.train) ∧
     (∃ t : State, exec .dissolve s = .next t.noteAll ∧ t.herd.formed = false ∧ t.herd.dissolved = true ∧ t.mem = s.mem ∧
       t.train.committed = s.train.committed) ∧
     (∀ p < 4, ∀ t1 t2 t3 t4 : Int, s.isLeader = false → ∃ t : State, exec (.sync p t1 (some (t2, t3)) t4) s = .next t.noteAll ∧
       t.herd.offset = ((t2 - t1) - (t4 - t3)) / 2 ∧
       (((t2 - t1) - (t4 - t3)) / 2 > 200 → t.herd.drift = true) ∧
       (((t2 - t1) - (t4 - t3)) / 2 = 0 → 3 ≤ s.herd.calm → t.herd.drift = false)) ∧
     (∀ p < 4, ∀ t1 t2 : Int, exec (.sync p t1 none t2) s = .next (s.sendPort p
       { vc := 0, name := "SYNC_ANSWER", args := [t1.toNat, t2.toNat, s.nowNs] }).noteAll) ∧
     (s.isLeader = false → ∀ p, s.route s.herd.leader = some p →
       exec .syncTimer s = .next (s.sendPort p { vc := 0, name := "SYNC", args := [s.nowNs] }).noteAll) ∧
     (∀ x, s.herd.logicalTwin = some x →
       exec .keepalive s = .next { s with herd := { s.herd with keepAlive := true } } ∧
       ((s.route s.herd.twinId).isSome = true → exec (.keepaliveTimeout false) s =
         .next ({ s with herd := { s.herd with keepAlive := false } } : State).noteAll))) ∧
  (∀ s : State, s.mode = .ready → s.herd.formed = false →
     (∀ o : Offer, o.x < 64 → s.herd.forming = none → exec (.offer o) s = .next ({ s with herd := { s.herd with
       offers := (s.herd.offers.filter fun (y : Offer) => y.x != o.x) ++ [o] } } : State).noteAll) ∧
     (∀ (f : Forming) (p : Pkt), s.herd.forming = some f → s.pkt f.pkt = some p →
       s.portsReady (entriesOf f.bytes) f.self = false →
       ∃ t r, exec .formTimeout s = .next t ∧ t.herd.forming = none ∧ t.herd.formed = false ∧ t.pkt f.pkt = some r ∧
         r.stage = .ended ∧ r.status = .herdTimeout))

/-- The messages of a commit: COMMIT flips the step and logs it PROVISIONAL, LOGGED without a herd performs it, DONE ends
the packet, ROLLBACK aborts it; the twin answers a LOG (R256, R257, Table TRN-6). -/
def Obligations.CommitMessagesTakeEffect : Prop :=
  ∀ (s : State) (step token : BitVec 64), s.mode = .ready →
    (s.regions.ckptBase.isSome = true → ∀ st : LogState, ∃ t, exec (.log token step st) s = .next t ∧
      t.train = { s.train with log := ((token, step, st) :: s.train.log).take 1024 } ∧ t.mem = s.mem) ∧
    (∀ c : CommitSt, s.herd.formed = true → s.train.commit = some c → c.step = step → c.pkt.isSome = true → c.flipped = false →
      ∃ t, exec (.commit step token) s = .next t ∧ t.train.committed = s.train.committed + 1 ∧ t.train.undoOk = true ∧
        t.train.lastLog = some .provisional ∧ t.train.commit = some { c with token := token, flipped := true } ∧ t.mem = s.mem) ∧
    (∀ (c : CommitSt) (i : Nat), s.herd.formed = true → s.train.commit = some c → c.step = step → c.pkt = some i → c.flipped = true →
      (s.pkt i).isSome = true → ∃ t r, exec (.done step token) s = .next t ∧ t.train.commit = none ∧ t.train.undecided = false ∧
        t.train.committed = s.train.committed ∧ t.pkt i = some r ∧ r.stage = .ended ∧ r.r0 = step ∧ r.r1 = token) ∧
    (∀ (c : CommitSt) (i : Nat), s.herd.formed = true → s.train.commit = some c → c.pkt = some i → (s.pkt i).isSome = true →
      s.train.committed = step → ∃ t r, exec (.rollback step) s = .next t ∧ t.train.commit = none ∧
        t.train.committed = step ∧ (∀ x ∈ t.regions.pages, pgPending x.2 = false) ∧ t.pkt i = some r ∧
        r.status = .commitAborted) ∧
    (∀ (c : CommitSt) (i : Nat), s.herd.formed = false → s.train.commit = some c → c.token = token → c.acked = false →
      c.pkt = some i → (s.pkt i).isSome = true → ∃ t r, exec (.logged token) s = .next t ∧ t.train.commit = none ∧
        t.train.committed = s.train.committed + 1 ∧ t.pkt i = some r ∧ r.stage = .ended ∧ r.r0 = c.step ∧ r.r1 = token) ∧
    (∀ x < 64, s.isLeader = true → s.herd.lead = none → s.herd.allOf [x] = false → exec (.readyMessage x step) s =
      .next ({ s with herd := { s.herd with lead := some { step := step, ready := [x] } } } : State).noteAll) ∧
    (∀ (x : Nat) (l : Lead) (k : BitVec 64), x < 64 → s.isLeader = true → s.herd.lead = some l → l.token = some k → l.step = step →
      x ∉ l.acks → s.herd.allOf (l.acks ++ [x]) = false → exec (.ack x step) s =
        .next ({ s with herd := { s.herd with lead := some { l with acks := l.acks ++ [x] } } } : State).noteAll) ∧
    (∀ (x : Nat) (m : MemberState), x < 64 → s.isLeader = true → s.herd.resolving = true → m.x = x →
      (s.herd.live.all fun y => ((s.herd.states.filter fun z => z.x != x) ++ [m]).any fun z => z.x = y) = false →
      exec (.state x m.committed m.undecided { own := m.log, twin := m.twin }) s = .next ({ s with herd := { s.herd with
        states := (s.herd.states.filter fun z => z.x != x) ++ [m] } } : State).noteAll) ∧
    (∀ (h : Nat) (p : Pkt) (c : CommitSt), h < 256 → s.front h = some p → s.pkt p.id = some p → p.wait = .herd → p.op = 0x51 →
      s.coll p.id = none → s.train.commit = some c → s.herd.formed = false → ∃ t r, exec (.herdWaitLimitExpiry h) s = .next t ∧
        t.train.commit = none ∧ t.pkt p.id = some r ∧ r.status = .herdTimeout ∧ t.herd.failOp = 0x51)

/-- Messages of the collectives and of herd contexts: a JOIN is kept by the leader until all have come, a RESULT chunk is
written and completes the packet with the last, a member's nodes are kept by the tree member, its result ends the
waiting close (R241, R243, R304). Messages of a checkpoint: a page is kept by the holder in a free frame, the
confirmation ends the sender's packet and makes the checkpoint complete, the holder answers a query, the page of a
restore is kept until its packet runs (R261, R262, R265). -/
def Obligations.MessagesOfCollectivesAndCheckpoints : Prop :=
  (∀ s : State, s.mode = .ready → s.herd.formed = true →
     (∀ (g : Bool) (k x : Nat) (fs : List Nat), s.isLeader = true →
       let js := (s.herd.joins.filter fun j => !(j.1 = g && j.2.1 = k && j.2.2.1 = x)) ++ [(g, k, x, fs)]
       s.herd.allOf ((js.filter fun j => j.1 = g && j.2.1 = k).map fun j => j.2.2.1) = false →
       exec (.collectiveNode (.join g k x fs)) s = .next ({ s with herd := { s.herd with joins := js } } : State).noteAll) ∧
     (∀ m : CtxNodesMsg, m.x < 64 → s.herd.treeMember = s.herd.self → (s.herd.closes.all fun c => c.k != m.k) = true →
       exec (.herdCtxNode m) s = .next ({ s with herd := { s.herd with
         closeMsgs := (s.herd.closeMsgs.filter fun (y : CtxNodesMsg) => !(y.k = m.k && y.x = m.x)) ++ [m] } } : State).noteAll) ∧
     (∀ (k i h : Nat) (p : Pkt) (c : Ctx) (r0 count : BitVec 64)
       (ev : BitVec 3), s.herd.closes.find? (fun x => x.k = k) = some { pkt := i, handle := h, k := k } →
       s.pkt i = some p → s.ctx h = some c → p.stage = .running → p.wait = .herd → bit (p.w 2) 0 = false → c.handle = h →
       ∃ t r, exec (.herdCtxResult k (r0, count) ev) s = .next t ∧ t.pkt i = some r ∧ r.stage = .ended ∧ r.r0 = r0 ∧
         r.r1 = BitVec.ofNat 64 (count.toNat % 2 ^ 40) ∧ t.ctx h = none)) ∧
  (∀ s : State, s.mode = .ready →
     (∀ (x page f : Nat) (step : BitVec 64) (bs : List (BitVec 8)) (cs : List Ckpt), x < 64 → page < 114688 →
       s.regions.ckptBase.isSome = true → bs.length = 65536 → addPage s.train.held step page = some (cs, f) →
       ∃ t, exec (.checkpointPage x step page bs) s = .next t ∧ t.train = { s.train with held := cs } ∧ t.hops = s.hops ∧
         t.herd = s.herd) ∧
     (∀ (c : CkptRun) (p : Pkt), s.train.ckpt = some c → c.todo = [] → s.pkt c.pkt = some p → p.stage = .running →
       ∃ t r, exec (.checkpointConfirm (.sender c.step)) s = .next t ∧ t.train.ckpt = none ∧ t.pkt c.pkt = some r ∧
         r.stage = .ended ∧ r.r0 = BitVec.ofNat 64 (c.sent.length * 65536) ∧ r.r1 = c.step ∧ t.mem = s.mem) ∧
     (∀ r : RestoreRun, s.train.restore = some r → r.held = false →
       exec (.restoreQuery (.answered true)) s = .next (({ s with train := { s.train with restore := some { r with held := true } } } : State).modPkt
         r.pkt fun q => { q with wait := .none }).noteAll) ∧
     (∀ (r : RestoreRun) (p : Pkt) (page : Nat) (bs : List (BitVec 8)), s.train.restore = some r → s.pkt r.pkt = some p →
       p.stage = .decoded → page < s.paramPages → page < 114688 → bs.length = 65536 →
       exec (.restorePage page bs) s = .next ({ s with train := { s.train with
         restore := some { r with early := r.early ++ [(page, bs)] } } } : State).noteAll))

/-! ### Numbers, ranking, slots -/

/-- NaN converted to E4M3 is 0x7F whatever OVF_MODE holds; NaN converted to an integer format is 0, with NAN_SEEN (R46). -/
def Obligations.NanConversions : Prop :=
  ∀ (d : Desc) (md : Rnd), (d.fmt = .e4m3 → (d.write md .nan).1 = 0x7F) ∧
    (d.fmt = .int8 ∨ d.fmt = .int16 → (d.write md .nan).1 = 0 ∧ (d.write md .nan).2.nanSeen = true)

/-- E4M3 saturates whatever OVF_MODE holds: an overflowing value and an infinity are written as 448 with their sign, with
SAT (R41). -/
def Obligations.E4m3Saturates : Prop :=
  ∀ (d : Desc) (md : Rnd) (v : Val), d.fmt = .e4m3 → v.isInf = true ∨ d.overflows md v = true →
    d.write md v = ((if v.isNeg then 0xFE else 0x7E), { sat := true })

/-- Every element that is a number reads and writes back as it stands, without a flag, in every format and rounding mode:
a widening or a copy loses nothing (R30). -/
def Obligations.ReadsWriteBack : Prop :=
  ∀ (d : Desc) (md : Rnd) (b : Nat), b < 2 ^ d.fmt.bits → d.daz = false → d.ftz = false → (d.read b).isNan = false →
    (d.read b).isInf = false ∨ d.sat = false → d.write md (d.read b) = (b, {})

/-- Candidates are ranked by a strict total order: by value, greater first under DIR 0 and smaller first under DIR 1, a
NaN above everything, and by the lower index on equal values (R152, R153). -/
def Obligations.RankingIsATotalOrder : Prop :=
  (∀ (dir : Bool) (a b c : Rank), a.before dir a = false ∧
    (a.before dir b = true → b.before dir c = true → a.before dir c = true) ∧
    (a.idx ≠ b.idx → a.before dir b = true ∨ b.before dir a = true)) ∧
  (∀ (dir : Bool) (a b : Rank), (f32val a.v).isNan = false → (f32val b.v).isNan = false →
    (a.before dir b = true ↔
      (if dir then (f32val a.v).lt (f32val b.v) = true else (f32val b.v).lt (f32val a.v) = true) ∨
      ((f32val a.v).lt (f32val b.v) = false ∧ (f32val b.v).lt (f32val a.v) = false ∧ a.idx < b.idx))) ∧
  (∀ a b : Rank, (f32val a.v).isNan = true → (f32val b.v).isNan = false → a.before false b = true ∧ b.before true a = true)

/-- A context slot is the lowest free one of those its class may use: the whole store for URGENT, slots 256 to 8,191 for
the other classes; one is found whenever one is free, and of a chained pair both are the lowest (R68). -/
def Obligations.LowestFreeSlotFirst : Prop :=
  ∀ (s : State) (e cls : Nat),
    let first := if cls = 0 then 0 else 256
    let taken (k : Nat) : Prop := ∃ c ∈ s.ctxs, handleEngine c.handle = e ∧ handleSlot c.handle = k
    (∀ a b, s.slotsOn e cls false = some (a, b) → a = b ∧ first ≤ a ∧ a < 8192 ∧ ¬ taken a ∧
      ∀ k, first ≤ k → k < a → taken k) ∧
    (∀ k, first ≤ k → k < 8192 → ¬ taken k → (s.slotsOn e cls false).isSome = true) ∧
    (∀ a b, s.slotsOn e cls true = some (a, b) → first ≤ a ∧ a < b ∧ b < 8192 ∧ ¬ taken a ∧ ¬ taken b ∧
      ∀ k, first ≤ k → k < b → k ≠ a → taken k) ∧
    (∀ k l, first ≤ k → k < l → l < 8192 → ¬ taken k → ¬ taken l → (s.slotsOn e cls true).isSome = true)
end

