-- ==== Sys2Proof/Laws/Memory.lean ====
section
/-!
SUPPORT. The laws of the byte memories: a read after a write, and the canonical form, which every memory operation keeps.
-/
namespace Sys2Proof.Machine

variable {d : BitVec 8}

/-! ### Reading after a write -/

/-- A write leaves every other address alone. -/
theorem readCell_writeCell_other (m : List Host.Cell) {a b : Nat} (v : BitVec 8) (h : b ≠ a) :
    readCell d (writeCell d m a v) b = readCell d m b := by
  induction m with
  | nil => unfold writeCell; split <;> simp [readCell, Ne.symm h]
  | cons c t ih =>
    obtain ⟨x, w⟩ := c
    unfold writeCell
    split
    · simp [readCell, ih]
    · split
      · rename_i _ hx
        subst hx
        split <;> simp [readCell, Ne.symm h]
      · split
        · rfl
        · simp [readCell, Ne.symm h]

/-- Nothing listed from `lo` on lies below `lo`. -/
theorem readCell_below (m : List Host.Cell) {lo a : Nat} (h : cellsWf d lo m = true) (ha : a < lo) : readCell d m a = d := by
  induction m generalizing lo with
  | nil => rfl
  | cons c t ih =>
    obtain ⟨x, w⟩ := c
    simp only [cellsWf, Bool.and_eq_true, decide_eq_true_eq] at h
    have hx : x ≠ a := by omega
    simp only [readCell, hx, if_false]
    exact ih h.2 (by omega)

/-- A read of the address just written gives the byte written. -/
theorem readCell_writeCell_same (m : List Host.Cell) {lo a : Nat} (v : BitVec 8) (h : cellsWf d lo m = true) :
    readCell d (writeCell d m a v) a = v := by
  induction m generalizing lo with
  | nil => unfold writeCell; split <;> simp_all [readCell]
  | cons c t ih =>
    obtain ⟨x, w⟩ := c
    simp only [cellsWf, Bool.and_eq_true, decide_eq_true_eq] at h
    unfold writeCell
    split
    · rename_i hx
      have : x ≠ a := by omega
      simp only [readCell, this, if_false]
      exact ih h.2
    · split
      · rename_i _ hx
        subst hx
        split
        · rename_i hv
          rw [hv]
          exact readCell_below t h.2 (by omega)
        · simp [readCell]
      · split
        · rename_i hv
          have hx : x ≠ a := by assumption
          simp only [readCell, hx, if_false]
          rw [hv]
          exact readCell_below t h.2 (by omega)
        · simp [readCell]

/-! ### The canonical form -/

theorem cellsWf_mono (m : List Host.Cell) {lo lo' : Nat} (h : cellsWf d lo m = true) (hl : lo' ≤ lo) : cellsWf d lo' m = true := by
  cases m with
  | nil => rfl
  | cons c t =>
    simp only [cellsWf, Bool.and_eq_true, decide_eq_true_eq] at h ⊢
    exact ⟨⟨by omega, h.1.2⟩, h.2⟩

/-- A write keeps the canonical form. -/
theorem writeCell_wf (m : List Host.Cell) {lo a : Nat} (v : BitVec 8) (h : cellsWf d lo m = true) (ha : lo ≤ a) :
    cellsWf d lo (writeCell d m a v) = true := by
  induction m generalizing lo with
  | nil => unfold writeCell; split <;> simp_all [cellsWf]
  | cons c t ih =>
    obtain ⟨x, w⟩ := c
    have h' := h
    simp only [cellsWf, Bool.and_eq_true, decide_eq_true_eq] at h
    unfold writeCell
    split
    · rename_i hx
      simp only [cellsWf, Bool.and_eq_true, decide_eq_true_eq]
      exact ⟨h.1, ih h.2 (by omega)⟩
    · split
      · rename_i _ hx
        subst hx
        split
        · exact cellsWf_mono t h.2 (by omega)
        · rename_i hv
          simp only [cellsWf, Bool.and_eq_true, decide_eq_true_eq]
          exact ⟨⟨ha, by simpa using hv⟩, h.2⟩
      · split
        · exact h'
        · rename_i hv
          simp only [cellsWf, Bool.and_eq_true, decide_eq_true_eq]
          exact ⟨⟨ha, by simpa using hv⟩, ⟨by omega, h.1.2⟩, h.2⟩

theorem writeCells_wf (bs : List (BitVec 8)) (m : List Host.Cell) (a : Nat) (h : cellsWf d 0 m = true) :
    cellsWf d 0 (writeCells d m a bs) = true := by
  induction bs generalizing m a with
  | nil => exact h
  | cons b t ih => exact ih _ _ (writeCell_wf m b h (Nat.zero_le a))

theorem news_wf (l m : List Host.Cell) (h : cellsWf d 0 m = true) :
    cellsWf d 0 (l.foldl (fun m c => writeCell d m c.1 c.2) m) = true := by
  induction l generalizing m with
  | nil => exact h
  | cons c t ih => exact ih _ (writeCell_wf m c.2 h (Nat.zero_le c.1))

theorem programBytes_wf (n : Nat) (bs : List (BitVec 8)) (m : List Host.Cell) (a i : Nat) (h : cellsWf 0xFF 0 m = true) :
    cellsWf 0xFF 0 (programBytes n m a i bs) = true := by
  induction bs generalizing m i with
  | nil => exact h
  | cons b t ih => exact ih _ _ (writeCell_wf m _ h (Nat.zero_le _))

/-! ### Runs of bytes -/

/-- A run of bytes written reads back, and every address outside it reads as before. -/
theorem readCell_writeCells (bs : List (BitVec 8)) (m : List Host.Cell) (a x : Nat) (h : cellsWf d 0 m = true) :
    readCell d (writeCells d m a bs) x = if a ≤ x ∧ x < a + bs.length then bs.getD (x - a) 0 else readCell d m x := by
  induction bs generalizing m a with
  | nil =>
    have h1 : ¬(a ≤ x ∧ x < a + ([] : List (BitVec 8)).length) := by simp
    rw [if_neg h1]
    rfl
  | cons b t ih =>
    simp only [writeCells]
    rw [ih _ _ (writeCell_wf m b h (Nat.zero_le a))]
    by_cases hx : x = a
    · subst hx
      have h1 : ¬(x + 1 ≤ x ∧ x < x + 1 + t.length) := by omega
      have h2 : x ≤ x ∧ x < x + (b :: t).length := by simp
      rw [if_neg h1, if_pos h2, readCell_writeCell_same m b h]
      simp
    · rw [readCell_writeCell_other m b hx]
      by_cases h1 : a + 1 ≤ x ∧ x < a + 1 + t.length
      · have h2 : a ≤ x ∧ x < a + (b :: t).length := by simp only [List.length_cons]; omega
        have h3 : x - a = (x - (a + 1)) + 1 := by omega
        rw [if_pos h1, if_pos h2, h3, List.getD_cons_succ]
      · have h2 : ¬(a ≤ x ∧ x < a + (b :: t).length) := by simp only [List.length_cons]; omega
        rw [if_neg h1, if_neg h2]

theorem readCells_length (m : List Host.Cell) (a n : Nat) : (readCells d m a n).length = n := by
  induction n generalizing a with
  | zero => rfl
  | succ n ih => simp [readCells, ih]

/-- Bytes written read back, wherever in them the read begins. -/
theorem readCells_writeCells (bs : List (BitVec 8)) (m : List Host.Cell) (a k n : Nat) (h : cellsWf d 0 m = true)
    (hl : k + n ≤ bs.length) : readCells d (writeCells d m a bs) (a + k) n = (bs.drop k).take n := by
  induction n generalizing k with
  | zero => simp [readCells]
  | succ n ih =>
    have hk : k < bs.length := by omega
    rw [readCells, readCell_writeCells bs m a _ h, if_pos ⟨by omega, by omega⟩, Nat.add_assoc, ih (k + 1) (by omega),
      List.drop_eq_getElem_cons hk, List.take_succ_cons, Nat.add_sub_cancel_left]
    simp [hk]

/-- Bytes beyond those written read as before. -/
theorem readCells_writeCells_above (bs : List (BitVec 8)) (m : List Host.Cell) (a x n : Nat) (h : cellsWf d 0 m = true)
    (hx : a + bs.length ≤ x) : readCells d (writeCells d m a bs) x n = readCells d m x n := by
  induction n generalizing x with
  | zero => rfl
  | succ n ih => rw [readCells, readCells, readCell_writeCells bs m a _ h, if_neg (by omega), ih (x + 1) (by omega)]

theorem readCells_nil (a n : Nat) : readCells d [] a n = List.replicate n d := by
  induction n generalizing a with
  | zero => rfl
  | succ n ih => rw [readCells, ih, readCell, List.replicate_succ]

/-! ### Bytes of a number (R9) -/

@[simp] theorem leBytes_length : ∀ n v : Nat, (leBytes n v).length = n
  | 0, _ => rfl
  | n + 1, v => by simp [leBytes, leBytes_length n]

/-- The little-endian bytes of a number read back as the number. -/
theorem ofBytes_leBytes : ∀ n v : Nat, v < 256 ^ n → ofBytes (leBytes n v) = v
  | 0, v, h => by simp at h; simp [leBytes, ofBytes, h]
  | n + 1, v, h => by
    rw [leBytes, ofBytes, ofBytes_leBytes n (v / 256) (by rw [Nat.pow_succ] at h; omega)]
    simp; omega

end Sys2Proof.Machine
end

