-- ==== Sys2Proof/Laws/State.lean ====
section
/-!
SUPPORT. The small lemmas of State: what each update of one field leaves and changes, true by rfl.
-/
namespace Sys2Proof.Machine

/-! ### modHop -/

@[simp] theorem State.modHop_pending (s : State) (h : Nat) (f : Hopper → Hopper) : (s.modHop h f).pending = s.pending := rfl
@[simp] theorem State.modHop_mode (s : State) (h : Nat) (f : Hopper → Hopper) : (s.modHop h f).mode = s.mode := rfl
@[simp] theorem State.modHop_glb (s : State) (h : Nat) (f : Hopper → Hopper) : (s.modHop h f).glb = s.glb := rfl
@[simp] theorem State.modHop_parts (s : State) (h : Nat) (f : Hopper → Hopper) : (s.modHop h f).parts = s.parts := rfl
@[simp] theorem State.modHop_hops (s : State) (h : Nat) (f : Hopper → Hopper) : (s.modHop h f).hops = s.hops.modify h f := rfl
@[simp] theorem State.modHop_served (s : State) (h : Nat) (f : Hopper → Hopper) : (s.modHop h f).served = s.served := rfl
@[simp] theorem State.modHop_pkts (s : State) (h : Nat) (f : Hopper → Hopper) : (s.modHop h f).pkts = s.pkts := rfl
@[simp] theorem State.modHop_nextId (s : State) (h : Nat) (f : Hopper → Hopper) : (s.modHop h f).nextId = s.nextId := rfl
@[simp] theorem State.modHop_ctxs (s : State) (h : Nat) (f : Hopper → Hopper) : (s.modHop h f).ctxs = s.ctxs := rfl
@[simp] theorem State.modHop_engines (s : State) (h : Nat) (f : Hopper → Hopper) : (s.modHop h f).engines = s.engines := rfl
@[simp] theorem State.modHop_mem (s : State) (h : Nat) (f : Hopper → Hopper) : (s.modHop h f).mem = s.mem := rfl
@[simp] theorem State.modHop_wins (s : State) (h : Nat) (f : Hopper → Hopper) : (s.modHop h f).wins = s.wins := rfl
@[simp] theorem State.modHop_host (s : State) (h : Nat) (f : Hopper → Hopper) : (s.modHop h f).host = s.host := rfl
@[simp] theorem State.modHop_regions (s : State) (h : Nat) (f : Hopper → Hopper) : (s.modHop h f).regions = s.regions := rfl
@[simp] theorem State.modHop_sec (s : State) (h : Nat) (f : Hopper → Hopper) : (s.modHop h f).sec = s.sec := rfl
@[simp] theorem State.modHop_err (s : State) (h : Nat) (f : Hopper → Hopper) : (s.modHop h f).err = s.err := rfl
@[simp] theorem State.modHop_aon (s : State) (h : Nat) (f : Hopper → Hopper) : (s.modHop h f).aon = s.aon := rfl
@[simp] theorem State.modHop_image (s : State) (h : Nat) (f : Hopper → Hopper) : (s.modHop h f).image = s.image := rfl
@[simp] theorem State.modHop_pwr (s : State) (h : Nat) (f : Hopper → Hopper) : (s.modHop h f).pwr = s.pwr := rfl
@[simp] theorem State.modHop_flash (s : State) (h : Nat) (f : Hopper → Hopper) : (s.modHop h f).flash = s.flash := rfl
@[simp] theorem State.modHop_pins (s : State) (h : Nat) (f : Hopper → Hopper) : (s.modHop h f).pins = s.pins := rfl
@[simp] theorem State.modHop_tap (s : State) (h : Nat) (f : Hopper → Hopper) : (s.modHop h f).tap = s.tap := rfl
@[simp] theorem State.modHop_msix (s : State) (h : Nat) (f : Hopper → Hopper) : (s.modHop h f).msix = s.msix := rfl
@[simp] theorem State.modHop_ports (s : State) (h : Nat) (f : Hopper → Hopper) : (s.modHop h f).ports = s.ports := rfl
@[simp] theorem State.modHop_herd (s : State) (h : Nat) (f : Hopper → Hopper) : (s.modHop h f).herd = s.herd := rfl
@[simp] theorem State.modHop_train (s : State) (h : Nat) (f : Hopper → Hopper) : (s.modHop h f).train = s.train := rfl
@[simp] theorem State.modHop_replay (s : State) (h : Nat) (f : Hopper → Hopper) : (s.modHop h f).replay = s.replay := rfl
@[simp] theorem State.modHop_verdictLost (s : State) (h : Nat) (f : Hopper → Hopper) : (s.modHop h f).verdictLost = s.verdictLost := rfl
@[simp] theorem State.modHop_time (s : State) (h : Nat) (f : Hopper → Hopper) : (s.modHop h f).time = s.time := rfl
@[simp] theorem State.modHop_frac (s : State) (h : Nat) (f : Hopper → Hopper) : (s.modHop h f).frac = s.frac := rfl
@[simp] theorem State.modHop_out (s : State) (h : Nat) (f : Hopper → Hopper) : (s.modHop h f).out = s.out := rfl
@[simp] theorem State.modHop_fallow (s : State) (h : Nat) (f : Hopper → Hopper) : (s.modHop h f).fallow = s.fallow := rfl
@[simp] theorem State.modHop_free (s : State) (h : Nat) (f : Hopper → Hopper) : (s.modHop h f).free = s.free := rfl

/-! ### modEng -/

@[simp] theorem State.modEng_pending (s : State) (e : Nat) (f : Engine → Engine) : (s.modEng e f).pending = s.pending := rfl
@[simp] theorem State.modEng_mode (s : State) (e : Nat) (f : Engine → Engine) : (s.modEng e f).mode = s.mode := rfl
@[simp] theorem State.modEng_glb (s : State) (e : Nat) (f : Engine → Engine) : (s.modEng e f).glb = s.glb := rfl
@[simp] theorem State.modEng_parts (s : State) (e : Nat) (f : Engine → Engine) : (s.modEng e f).parts = s.parts := rfl
@[simp] theorem State.modEng_hops (s : State) (e : Nat) (f : Engine → Engine) : (s.modEng e f).hops = s.hops := rfl
@[simp] theorem State.modEng_served (s : State) (e : Nat) (f : Engine → Engine) : (s.modEng e f).served = s.served := rfl
@[simp] theorem State.modEng_pkts (s : State) (e : Nat) (f : Engine → Engine) : (s.modEng e f).pkts = s.pkts := rfl
@[simp] theorem State.modEng_nextId (s : State) (e : Nat) (f : Engine → Engine) : (s.modEng e f).nextId = s.nextId := rfl
@[simp] theorem State.modEng_ctxs (s : State) (e : Nat) (f : Engine → Engine) : (s.modEng e f).ctxs = s.ctxs := rfl
@[simp] theorem State.modEng_engines (s : State) (e : Nat) (f : Engine → Engine) : (s.modEng e f).engines = s.engines.modify e f := rfl
@[simp] theorem State.modEng_mem (s : State) (e : Nat) (f : Engine → Engine) : (s.modEng e f).mem = s.mem := rfl
@[simp] theorem State.modEng_wins (s : State) (e : Nat) (f : Engine → Engine) : (s.modEng e f).wins = s.wins := rfl
@[simp] theorem State.modEng_host (s : State) (e : Nat) (f : Engine → Engine) : (s.modEng e f).host = s.host := rfl
@[simp] theorem State.modEng_regions (s : State) (e : Nat) (f : Engine → Engine) : (s.modEng e f).regions = s.regions := rfl
@[simp] theorem State.modEng_sec (s : State) (e : Nat) (f : Engine → Engine) : (s.modEng e f).sec = s.sec := rfl
@[simp] theorem State.modEng_err (s : State) (e : Nat) (f : Engine → Engine) : (s.modEng e f).err = s.err := rfl
@[simp] theorem State.modEng_aon (s : State) (e : Nat) (f : Engine → Engine) : (s.modEng e f).aon = s.aon := rfl
@[simp] theorem State.modEng_image (s : State) (e : Nat) (f : Engine → Engine) : (s.modEng e f).image = s.image := rfl
@[simp] theorem State.modEng_pwr (s : State) (e : Nat) (f : Engine → Engine) : (s.modEng e f).pwr = s.pwr := rfl
@[simp] theorem State.modEng_flash (s : State) (e : Nat) (f : Engine → Engine) : (s.modEng e f).flash = s.flash := rfl
@[simp] theorem State.modEng_pins (s : State) (e : Nat) (f : Engine → Engine) : (s.modEng e f).pins = s.pins := rfl
@[simp] theorem State.modEng_tap (s : State) (e : Nat) (f : Engine → Engine) : (s.modEng e f).tap = s.tap := rfl
@[simp] theorem State.modEng_msix (s : State) (e : Nat) (f : Engine → Engine) : (s.modEng e f).msix = s.msix := rfl
@[simp] theorem State.modEng_ports (s : State) (e : Nat) (f : Engine → Engine) : (s.modEng e f).ports = s.ports := rfl
@[simp] theorem State.modEng_herd (s : State) (e : Nat) (f : Engine → Engine) : (s.modEng e f).herd = s.herd := rfl
@[simp] theorem State.modEng_train (s : State) (e : Nat) (f : Engine → Engine) : (s.modEng e f).train = s.train := rfl
@[simp] theorem State.modEng_replay (s : State) (e : Nat) (f : Engine → Engine) : (s.modEng e f).replay = s.replay := rfl
@[simp] theorem State.modEng_verdictLost (s : State) (e : Nat) (f : Engine → Engine) : (s.modEng e f).verdictLost = s.verdictLost := rfl
@[simp] theorem State.modEng_time (s : State) (e : Nat) (f : Engine → Engine) : (s.modEng e f).time = s.time := rfl
@[simp] theorem State.modEng_frac (s : State) (e : Nat) (f : Engine → Engine) : (s.modEng e f).frac = s.frac := rfl
@[simp] theorem State.modEng_out (s : State) (e : Nat) (f : Engine → Engine) : (s.modEng e f).out = s.out := rfl
@[simp] theorem State.modEng_fallow (s : State) (e : Nat) (f : Engine → Engine) : (s.modEng e f).fallow = s.fallow := rfl
@[simp] theorem State.modEng_free (s : State) (e : Nat) (f : Engine → Engine) : (s.modEng e f).free = s.free := rfl

/-! ### modPart -/

@[simp] theorem State.modPart_pending (s : State) (p : Nat) (f : Part → Part) : (s.modPart p f).pending = s.pending := rfl
@[simp] theorem State.modPart_mode (s : State) (p : Nat) (f : Part → Part) : (s.modPart p f).mode = s.mode := rfl
@[simp] theorem State.modPart_glb (s : State) (p : Nat) (f : Part → Part) : (s.modPart p f).glb = s.glb := rfl
@[simp] theorem State.modPart_parts (s : State) (p : Nat) (f : Part → Part) : (s.modPart p f).parts = s.parts.modify p f := rfl
@[simp] theorem State.modPart_hops (s : State) (p : Nat) (f : Part → Part) : (s.modPart p f).hops = s.hops := rfl
@[simp] theorem State.modPart_served (s : State) (p : Nat) (f : Part → Part) : (s.modPart p f).served = s.served := rfl
@[simp] theorem State.modPart_pkts (s : State) (p : Nat) (f : Part → Part) : (s.modPart p f).pkts = s.pkts := rfl
@[simp] theorem State.modPart_nextId (s : State) (p : Nat) (f : Part → Part) : (s.modPart p f).nextId = s.nextId := rfl
@[simp] theorem State.modPart_ctxs (s : State) (p : Nat) (f : Part → Part) : (s.modPart p f).ctxs = s.ctxs := rfl
@[simp] theorem State.modPart_engines (s : State) (p : Nat) (f : Part → Part) : (s.modPart p f).engines = s.engines := rfl
@[simp] theorem State.modPart_mem (s : State) (p : Nat) (f : Part → Part) : (s.modPart p f).mem = s.mem := rfl
@[simp] theorem State.modPart_wins (s : State) (p : Nat) (f : Part → Part) : (s.modPart p f).wins = s.wins := rfl
@[simp] theorem State.modPart_host (s : State) (p : Nat) (f : Part → Part) : (s.modPart p f).host = s.host := rfl
@[simp] theorem State.modPart_regions (s : State) (p : Nat) (f : Part → Part) : (s.modPart p f).regions = s.regions := rfl
@[simp] theorem State.modPart_sec (s : State) (p : Nat) (f : Part → Part) : (s.modPart p f).sec = s.sec := rfl
@[simp] theorem State.modPart_err (s : State) (p : Nat) (f : Part → Part) : (s.modPart p f).err = s.err := rfl
@[simp] theorem State.modPart_aon (s : State) (p : Nat) (f : Part → Part) : (s.modPart p f).aon = s.aon := rfl
@[simp] theorem State.modPart_image (s : State) (p : Nat) (f : Part → Part) : (s.modPart p f).image = s.image := rfl
@[simp] theorem State.modPart_pwr (s : State) (p : Nat) (f : Part → Part) : (s.modPart p f).pwr = s.pwr := rfl
@[simp] theorem State.modPart_flash (s : State) (p : Nat) (f : Part → Part) : (s.modPart p f).flash = s.flash := rfl
@[simp] theorem State.modPart_pins (s : State) (p : Nat) (f : Part → Part) : (s.modPart p f).pins = s.pins := rfl
@[simp] theorem State.modPart_tap (s : State) (p : Nat) (f : Part → Part) : (s.modPart p f).tap = s.tap := rfl
@[simp] theorem State.modPart_msix (s : State) (p : Nat) (f : Part → Part) : (s.modPart p f).msix = s.msix := rfl
@[simp] theorem State.modPart_ports (s : State) (p : Nat) (f : Part → Part) : (s.modPart p f).ports = s.ports := rfl
@[simp] theorem State.modPart_herd (s : State) (p : Nat) (f : Part → Part) : (s.modPart p f).herd = s.herd := rfl
@[simp] theorem State.modPart_train (s : State) (p : Nat) (f : Part → Part) : (s.modPart p f).train = s.train := rfl
@[simp] theorem State.modPart_replay (s : State) (p : Nat) (f : Part → Part) : (s.modPart p f).replay = s.replay := rfl
@[simp] theorem State.modPart_verdictLost (s : State) (p : Nat) (f : Part → Part) : (s.modPart p f).verdictLost = s.verdictLost := rfl
@[simp] theorem State.modPart_time (s : State) (p : Nat) (f : Part → Part) : (s.modPart p f).time = s.time := rfl
@[simp] theorem State.modPart_frac (s : State) (p : Nat) (f : Part → Part) : (s.modPart p f).frac = s.frac := rfl
@[simp] theorem State.modPart_out (s : State) (p : Nat) (f : Part → Part) : (s.modPart p f).out = s.out := rfl
@[simp] theorem State.modPart_fallow (s : State) (p : Nat) (f : Part → Part) : (s.modPart p f).fallow = s.fallow := rfl
@[simp] theorem State.modPart_free (s : State) (p : Nat) (f : Part → Part) : (s.modPart p f).free = s.free := rfl

/-! ### modMem -/

@[simp] theorem State.modMem_pending (s : State) (f : Mem → Mem) : (s.modMem f).pending = s.pending := rfl
@[simp] theorem State.modMem_mode (s : State) (f : Mem → Mem) : (s.modMem f).mode = s.mode := rfl
@[simp] theorem State.modMem_glb (s : State) (f : Mem → Mem) : (s.modMem f).glb = s.glb := rfl
@[simp] theorem State.modMem_parts (s : State) (f : Mem → Mem) : (s.modMem f).parts = s.parts := rfl
@[simp] theorem State.modMem_hops (s : State) (f : Mem → Mem) : (s.modMem f).hops = s.hops := rfl
@[simp] theorem State.modMem_served (s : State) (f : Mem → Mem) : (s.modMem f).served = s.served := rfl
@[simp] theorem State.modMem_pkts (s : State) (f : Mem → Mem) : (s.modMem f).pkts = s.pkts := rfl
@[simp] theorem State.modMem_nextId (s : State) (f : Mem → Mem) : (s.modMem f).nextId = s.nextId := rfl
@[simp] theorem State.modMem_ctxs (s : State) (f : Mem → Mem) : (s.modMem f).ctxs = s.ctxs := rfl
@[simp] theorem State.modMem_engines (s : State) (f : Mem → Mem) : (s.modMem f).engines = s.engines := rfl
@[simp] theorem State.modMem_mem (s : State) (f : Mem → Mem) : (s.modMem f).mem = f s.mem := rfl
@[simp] theorem State.modMem_wins (s : State) (f : Mem → Mem) : (s.modMem f).wins = s.wins := rfl
@[simp] theorem State.modMem_host (s : State) (f : Mem → Mem) : (s.modMem f).host = s.host := rfl
@[simp] theorem State.modMem_regions (s : State) (f : Mem → Mem) : (s.modMem f).regions = s.regions := rfl
@[simp] theorem State.modMem_sec (s : State) (f : Mem → Mem) : (s.modMem f).sec = s.sec := rfl
@[simp] theorem State.modMem_err (s : State) (f : Mem → Mem) : (s.modMem f).err = s.err := rfl
@[simp] theorem State.modMem_aon (s : State) (f : Mem → Mem) : (s.modMem f).aon = s.aon := rfl
@[simp] theorem State.modMem_image (s : State) (f : Mem → Mem) : (s.modMem f).image = s.image := rfl
@[simp] theorem State.modMem_pwr (s : State) (f : Mem → Mem) : (s.modMem f).pwr = s.pwr := rfl
@[simp] theorem State.modMem_flash (s : State) (f : Mem → Mem) : (s.modMem f).flash = s.flash := rfl
@[simp] theorem State.modMem_pins (s : State) (f : Mem → Mem) : (s.modMem f).pins = s.pins := rfl
@[simp] theorem State.modMem_tap (s : State) (f : Mem → Mem) : (s.modMem f).tap = s.tap := rfl
@[simp] theorem State.modMem_msix (s : State) (f : Mem → Mem) : (s.modMem f).msix = s.msix := rfl
@[simp] theorem State.modMem_ports (s : State) (f : Mem → Mem) : (s.modMem f).ports = s.ports := rfl
@[simp] theorem State.modMem_herd (s : State) (f : Mem → Mem) : (s.modMem f).herd = s.herd := rfl
@[simp] theorem State.modMem_train (s : State) (f : Mem → Mem) : (s.modMem f).train = s.train := rfl
@[simp] theorem State.modMem_replay (s : State) (f : Mem → Mem) : (s.modMem f).replay = s.replay := rfl
@[simp] theorem State.modMem_verdictLost (s : State) (f : Mem → Mem) : (s.modMem f).verdictLost = s.verdictLost := rfl
@[simp] theorem State.modMem_time (s : State) (f : Mem → Mem) : (s.modMem f).time = s.time := rfl
@[simp] theorem State.modMem_frac (s : State) (f : Mem → Mem) : (s.modMem f).frac = s.frac := rfl
@[simp] theorem State.modMem_out (s : State) (f : Mem → Mem) : (s.modMem f).out = s.out := rfl
@[simp] theorem State.modMem_fallow (s : State) (f : Mem → Mem) : (s.modMem f).fallow = s.fallow := rfl
@[simp] theorem State.modMem_free (s : State) (f : Mem → Mem) : (s.modMem f).free = s.free := rfl

/-! ### modPkt -/

@[simp] theorem State.modPkt_pending (s : State) (i : Nat) (f : Pkt → Pkt) : (s.modPkt i f).pending = s.pending := rfl
@[simp] theorem State.modPkt_mode (s : State) (i : Nat) (f : Pkt → Pkt) : (s.modPkt i f).mode = s.mode := rfl
@[simp] theorem State.modPkt_glb (s : State) (i : Nat) (f : Pkt → Pkt) : (s.modPkt i f).glb = s.glb := rfl
@[simp] theorem State.modPkt_parts (s : State) (i : Nat) (f : Pkt → Pkt) : (s.modPkt i f).parts = s.parts := rfl
@[simp] theorem State.modPkt_hops (s : State) (i : Nat) (f : Pkt → Pkt) : (s.modPkt i f).hops = s.hops := rfl
@[simp] theorem State.modPkt_served (s : State) (i : Nat) (f : Pkt → Pkt) : (s.modPkt i f).served = s.served := rfl
@[simp] theorem State.modPkt_pkts (s : State) (i : Nat) (f : Pkt → Pkt) : (s.modPkt i f).pkts = s.pkts.map fun p => if p.id = i then f p else p := rfl
@[simp] theorem State.modPkt_nextId (s : State) (i : Nat) (f : Pkt → Pkt) : (s.modPkt i f).nextId = s.nextId := rfl
@[simp] theorem State.modPkt_ctxs (s : State) (i : Nat) (f : Pkt → Pkt) : (s.modPkt i f).ctxs = s.ctxs := rfl
@[simp] theorem State.modPkt_engines (s : State) (i : Nat) (f : Pkt → Pkt) : (s.modPkt i f).engines = s.engines := rfl
@[simp] theorem State.modPkt_mem (s : State) (i : Nat) (f : Pkt → Pkt) : (s.modPkt i f).mem = s.mem := rfl
@[simp] theorem State.modPkt_wins (s : State) (i : Nat) (f : Pkt → Pkt) : (s.modPkt i f).wins = s.wins := rfl
@[simp] theorem State.modPkt_host (s : State) (i : Nat) (f : Pkt → Pkt) : (s.modPkt i f).host = s.host := rfl
@[simp] theorem State.modPkt_regions (s : State) (i : Nat) (f : Pkt → Pkt) : (s.modPkt i f).regions = s.regions := rfl
@[simp] theorem State.modPkt_sec (s : State) (i : Nat) (f : Pkt → Pkt) : (s.modPkt i f).sec = s.sec := rfl
@[simp] theorem State.modPkt_err (s : State) (i : Nat) (f : Pkt → Pkt) : (s.modPkt i f).err = s.err := rfl
@[simp] theorem State.modPkt_aon (s : State) (i : Nat) (f : Pkt → Pkt) : (s.modPkt i f).aon = s.aon := rfl
@[simp] theorem State.modPkt_image (s : State) (i : Nat) (f : Pkt → Pkt) : (s.modPkt i f).image = s.image := rfl
@[simp] theorem State.modPkt_pwr (s : State) (i : Nat) (f : Pkt → Pkt) : (s.modPkt i f).pwr = s.pwr := rfl
@[simp] theorem State.modPkt_flash (s : State) (i : Nat) (f : Pkt → Pkt) : (s.modPkt i f).flash = s.flash := rfl
@[simp] theorem State.modPkt_pins (s : State) (i : Nat) (f : Pkt → Pkt) : (s.modPkt i f).pins = s.pins := rfl
@[simp] theorem State.modPkt_tap (s : State) (i : Nat) (f : Pkt → Pkt) : (s.modPkt i f).tap = s.tap := rfl
@[simp] theorem State.modPkt_msix (s : State) (i : Nat) (f : Pkt → Pkt) : (s.modPkt i f).msix = s.msix := rfl
@[simp] theorem State.modPkt_ports (s : State) (i : Nat) (f : Pkt → Pkt) : (s.modPkt i f).ports = s.ports := rfl
@[simp] theorem State.modPkt_herd (s : State) (i : Nat) (f : Pkt → Pkt) : (s.modPkt i f).herd = s.herd := rfl
@[simp] theorem State.modPkt_train (s : State) (i : Nat) (f : Pkt → Pkt) : (s.modPkt i f).train = s.train := rfl
@[simp] theorem State.modPkt_replay (s : State) (i : Nat) (f : Pkt → Pkt) : (s.modPkt i f).replay = s.replay := rfl
@[simp] theorem State.modPkt_verdictLost (s : State) (i : Nat) (f : Pkt → Pkt) : (s.modPkt i f).verdictLost = s.verdictLost := rfl
@[simp] theorem State.modPkt_time (s : State) (i : Nat) (f : Pkt → Pkt) : (s.modPkt i f).time = s.time := rfl
@[simp] theorem State.modPkt_frac (s : State) (i : Nat) (f : Pkt → Pkt) : (s.modPkt i f).frac = s.frac := rfl
@[simp] theorem State.modPkt_out (s : State) (i : Nat) (f : Pkt → Pkt) : (s.modPkt i f).out = s.out := rfl
@[simp] theorem State.modPkt_fallow (s : State) (i : Nat) (f : Pkt → Pkt) : (s.modPkt i f).fallow = s.fallow := rfl
@[simp] theorem State.modPkt_free (s : State) (i : Nat) (f : Pkt → Pkt) : (s.modPkt i f).free = s.free := rfl

/-! ### modCtx -/

@[simp] theorem State.modCtx_pending (s : State) (h : Nat) (f : Ctx → Ctx) : (s.modCtx h f).pending = s.pending := rfl
@[simp] theorem State.modCtx_mode (s : State) (h : Nat) (f : Ctx → Ctx) : (s.modCtx h f).mode = s.mode := rfl
@[simp] theorem State.modCtx_glb (s : State) (h : Nat) (f : Ctx → Ctx) : (s.modCtx h f).glb = s.glb := rfl
@[simp] theorem State.modCtx_parts (s : State) (h : Nat) (f : Ctx → Ctx) : (s.modCtx h f).parts = s.parts := rfl
@[simp] theorem State.modCtx_hops (s : State) (h : Nat) (f : Ctx → Ctx) : (s.modCtx h f).hops = s.hops := rfl
@[simp] theorem State.modCtx_served (s : State) (h : Nat) (f : Ctx → Ctx) : (s.modCtx h f).served = s.served := rfl
@[simp] theorem State.modCtx_pkts (s : State) (h : Nat) (f : Ctx → Ctx) : (s.modCtx h f).pkts = s.pkts := rfl
@[simp] theorem State.modCtx_nextId (s : State) (h : Nat) (f : Ctx → Ctx) : (s.modCtx h f).nextId = s.nextId := rfl
@[simp] theorem State.modCtx_ctxs (s : State) (h : Nat) (f : Ctx → Ctx) : (s.modCtx h f).ctxs = s.ctxs.map fun c => if c.handle = h then f c else c := rfl
@[simp] theorem State.modCtx_engines (s : State) (h : Nat) (f : Ctx → Ctx) : (s.modCtx h f).engines = s.engines := rfl
@[simp] theorem State.modCtx_mem (s : State) (h : Nat) (f : Ctx → Ctx) : (s.modCtx h f).mem = s.mem := rfl
@[simp] theorem State.modCtx_wins (s : State) (h : Nat) (f : Ctx → Ctx) : (s.modCtx h f).wins = s.wins := rfl
@[simp] theorem State.modCtx_host (s : State) (h : Nat) (f : Ctx → Ctx) : (s.modCtx h f).host = s.host := rfl
@[simp] theorem State.modCtx_regions (s : State) (h : Nat) (f : Ctx → Ctx) : (s.modCtx h f).regions = s.regions := rfl
@[simp] theorem State.modCtx_sec (s : State) (h : Nat) (f : Ctx → Ctx) : (s.modCtx h f).sec = s.sec := rfl
@[simp] theorem State.modCtx_err (s : State) (h : Nat) (f : Ctx → Ctx) : (s.modCtx h f).err = s.err := rfl
@[simp] theorem State.modCtx_aon (s : State) (h : Nat) (f : Ctx → Ctx) : (s.modCtx h f).aon = s.aon := rfl
@[simp] theorem State.modCtx_image (s : State) (h : Nat) (f : Ctx → Ctx) : (s.modCtx h f).image = s.image := rfl
@[simp] theorem State.modCtx_pwr (s : State) (h : Nat) (f : Ctx → Ctx) : (s.modCtx h f).pwr = s.pwr := rfl
@[simp] theorem State.modCtx_flash (s : State) (h : Nat) (f : Ctx → Ctx) : (s.modCtx h f).flash = s.flash := rfl
@[simp] theorem State.modCtx_pins (s : State) (h : Nat) (f : Ctx → Ctx) : (s.modCtx h f).pins = s.pins := rfl
@[simp] theorem State.modCtx_tap (s : State) (h : Nat) (f : Ctx → Ctx) : (s.modCtx h f).tap = s.tap := rfl
@[simp] theorem State.modCtx_msix (s : State) (h : Nat) (f : Ctx → Ctx) : (s.modCtx h f).msix = s.msix := rfl
@[simp] theorem State.modCtx_ports (s : State) (h : Nat) (f : Ctx → Ctx) : (s.modCtx h f).ports = s.ports := rfl
@[simp] theorem State.modCtx_herd (s : State) (h : Nat) (f : Ctx → Ctx) : (s.modCtx h f).herd = s.herd := rfl
@[simp] theorem State.modCtx_train (s : State) (h : Nat) (f : Ctx → Ctx) : (s.modCtx h f).train = s.train := rfl
@[simp] theorem State.modCtx_replay (s : State) (h : Nat) (f : Ctx → Ctx) : (s.modCtx h f).replay = s.replay := rfl
@[simp] theorem State.modCtx_verdictLost (s : State) (h : Nat) (f : Ctx → Ctx) : (s.modCtx h f).verdictLost = s.verdictLost := rfl
@[simp] theorem State.modCtx_time (s : State) (h : Nat) (f : Ctx → Ctx) : (s.modCtx h f).time = s.time := rfl
@[simp] theorem State.modCtx_frac (s : State) (h : Nat) (f : Ctx → Ctx) : (s.modCtx h f).frac = s.frac := rfl
@[simp] theorem State.modCtx_out (s : State) (h : Nat) (f : Ctx → Ctx) : (s.modCtx h f).out = s.out := rfl
@[simp] theorem State.modCtx_fallow (s : State) (h : Nat) (f : Ctx → Ctx) : (s.modCtx h f).fallow = s.fallow := rfl
@[simp] theorem State.modCtx_free (s : State) (h : Nat) (f : Ctx → Ctx) : (s.modCtx h f).free = s.free := rfl

/-! ### dropCtx -/

@[simp] theorem State.dropCtx_pending (s : State) (h : Nat) : (s.dropCtx h).pending = s.pending := rfl
@[simp] theorem State.dropCtx_mode (s : State) (h : Nat) : (s.dropCtx h).mode = s.mode := rfl
@[simp] theorem State.dropCtx_glb (s : State) (h : Nat) : (s.dropCtx h).glb = s.glb := rfl
@[simp] theorem State.dropCtx_parts (s : State) (h : Nat) : (s.dropCtx h).parts = s.parts := rfl
@[simp] theorem State.dropCtx_hops (s : State) (h : Nat) : (s.dropCtx h).hops = s.hops := rfl
@[simp] theorem State.dropCtx_served (s : State) (h : Nat) : (s.dropCtx h).served = s.served := rfl
@[simp] theorem State.dropCtx_pkts (s : State) (h : Nat) : (s.dropCtx h).pkts = s.pkts := rfl
@[simp] theorem State.dropCtx_nextId (s : State) (h : Nat) : (s.dropCtx h).nextId = s.nextId := rfl
@[simp] theorem State.dropCtx_ctxs (s : State) (h : Nat) : (s.dropCtx h).ctxs = s.ctxs.filter fun c => c.handle != h := rfl
@[simp] theorem State.dropCtx_engines (s : State) (h : Nat) : (s.dropCtx h).engines = s.engines := rfl
@[simp] theorem State.dropCtx_mem (s : State) (h : Nat) : (s.dropCtx h).mem = s.mem := rfl
@[simp] theorem State.dropCtx_wins (s : State) (h : Nat) : (s.dropCtx h).wins = s.wins := rfl
@[simp] theorem State.dropCtx_host (s : State) (h : Nat) : (s.dropCtx h).host = s.host := rfl
@[simp] theorem State.dropCtx_regions (s : State) (h : Nat) : (s.dropCtx h).regions = s.regions := rfl
@[simp] theorem State.dropCtx_sec (s : State) (h : Nat) : (s.dropCtx h).sec = s.sec := rfl
@[simp] theorem State.dropCtx_err (s : State) (h : Nat) : (s.dropCtx h).err = s.err := rfl
@[simp] theorem State.dropCtx_aon (s : State) (h : Nat) : (s.dropCtx h).aon = s.aon := rfl
@[simp] theorem State.dropCtx_image (s : State) (h : Nat) : (s.dropCtx h).image = s.image := rfl
@[simp] theorem State.dropCtx_pwr (s : State) (h : Nat) : (s.dropCtx h).pwr = s.pwr := rfl
@[simp] theorem State.dropCtx_flash (s : State) (h : Nat) : (s.dropCtx h).flash = s.flash := rfl
@[simp] theorem State.dropCtx_pins (s : State) (h : Nat) : (s.dropCtx h).pins = s.pins := rfl
@[simp] theorem State.dropCtx_tap (s : State) (h : Nat) : (s.dropCtx h).tap = s.tap := rfl
@[simp] theorem State.dropCtx_msix (s : State) (h : Nat) : (s.dropCtx h).msix = s.msix := rfl
@[simp] theorem State.dropCtx_ports (s : State) (h : Nat) : (s.dropCtx h).ports = s.ports := rfl
@[simp] theorem State.dropCtx_herd (s : State) (h : Nat) : (s.dropCtx h).herd = s.herd := rfl
@[simp] theorem State.dropCtx_train (s : State) (h : Nat) : (s.dropCtx h).train = s.train := rfl
@[simp] theorem State.dropCtx_replay (s : State) (h : Nat) : (s.dropCtx h).replay = s.replay := rfl
@[simp] theorem State.dropCtx_verdictLost (s : State) (h : Nat) : (s.dropCtx h).verdictLost = s.verdictLost := rfl
@[simp] theorem State.dropCtx_time (s : State) (h : Nat) : (s.dropCtx h).time = s.time := rfl
@[simp] theorem State.dropCtx_frac (s : State) (h : Nat) : (s.dropCtx h).frac = s.frac := rfl
@[simp] theorem State.dropCtx_out (s : State) (h : Nat) : (s.dropCtx h).out = s.out := rfl
@[simp] theorem State.dropCtx_fallow (s : State) (h : Nat) : (s.dropCtx h).fallow = s.fallow := rfl
@[simp] theorem State.dropCtx_free (s : State) (h : Nat) : (s.dropCtx h).free = s.free := rfl

/-! ### hostNews -/

@[simp] theorem State.hostNews_pending (s : State) (l : List Host.Cell) : (s.hostNews l).pending = s.pending := rfl
@[simp] theorem State.hostNews_mode (s : State) (l : List Host.Cell) : (s.hostNews l).mode = s.mode := rfl
@[simp] theorem State.hostNews_glb (s : State) (l : List Host.Cell) : (s.hostNews l).glb = s.glb := rfl
@[simp] theorem State.hostNews_parts (s : State) (l : List Host.Cell) : (s.hostNews l).parts = s.parts := rfl
@[simp] theorem State.hostNews_hops (s : State) (l : List Host.Cell) : (s.hostNews l).hops = s.hops := rfl
@[simp] theorem State.hostNews_served (s : State) (l : List Host.Cell) : (s.hostNews l).served = s.served := rfl
@[simp] theorem State.hostNews_pkts (s : State) (l : List Host.Cell) : (s.hostNews l).pkts = s.pkts := rfl
@[simp] theorem State.hostNews_nextId (s : State) (l : List Host.Cell) : (s.hostNews l).nextId = s.nextId := rfl
@[simp] theorem State.hostNews_ctxs (s : State) (l : List Host.Cell) : (s.hostNews l).ctxs = s.ctxs := rfl
@[simp] theorem State.hostNews_engines (s : State) (l : List Host.Cell) : (s.hostNews l).engines = s.engines := rfl
@[simp] theorem State.hostNews_mem (s : State) (l : List Host.Cell) : (s.hostNews l).mem = s.mem := rfl
@[simp] theorem State.hostNews_wins (s : State) (l : List Host.Cell) : (s.hostNews l).wins = s.wins := rfl
@[simp] theorem State.hostNews_host (s : State) (l : List Host.Cell) : (s.hostNews l).host = l.foldl (fun m c => writeCell 0 m c.1 c.2) s.host := rfl
@[simp] theorem State.hostNews_regions (s : State) (l : List Host.Cell) : (s.hostNews l).regions = s.regions := rfl
@[simp] theorem State.hostNews_sec (s : State) (l : List Host.Cell) : (s.hostNews l).sec = s.sec := rfl
@[simp] theorem State.hostNews_err (s : State) (l : List Host.Cell) : (s.hostNews l).err = s.err := rfl
@[simp] theorem State.hostNews_aon (s : State) (l : List Host.Cell) : (s.hostNews l).aon = s.aon := rfl
@[simp] theorem State.hostNews_image (s : State) (l : List Host.Cell) : (s.hostNews l).image = s.image := rfl
@[simp] theorem State.hostNews_pwr (s : State) (l : List Host.Cell) : (s.hostNews l).pwr = s.pwr := rfl
@[simp] theorem State.hostNews_flash (s : State) (l : List Host.Cell) : (s.hostNews l).flash = s.flash := rfl
@[simp] theorem State.hostNews_pins (s : State) (l : List Host.Cell) : (s.hostNews l).pins = s.pins := rfl
@[simp] theorem State.hostNews_tap (s : State) (l : List Host.Cell) : (s.hostNews l).tap = s.tap := rfl
@[simp] theorem State.hostNews_msix (s : State) (l : List Host.Cell) : (s.hostNews l).msix = s.msix := rfl
@[simp] theorem State.hostNews_ports (s : State) (l : List Host.Cell) : (s.hostNews l).ports = s.ports := rfl
@[simp] theorem State.hostNews_herd (s : State) (l : List Host.Cell) : (s.hostNews l).herd = s.herd := rfl
@[simp] theorem State.hostNews_train (s : State) (l : List Host.Cell) : (s.hostNews l).train = s.train := rfl
@[simp] theorem State.hostNews_replay (s : State) (l : List Host.Cell) : (s.hostNews l).replay = s.replay := rfl
@[simp] theorem State.hostNews_verdictLost (s : State) (l : List Host.Cell) : (s.hostNews l).verdictLost = s.verdictLost := rfl
@[simp] theorem State.hostNews_time (s : State) (l : List Host.Cell) : (s.hostNews l).time = s.time := rfl
@[simp] theorem State.hostNews_frac (s : State) (l : List Host.Cell) : (s.hostNews l).frac = s.frac := rfl
@[simp] theorem State.hostNews_out (s : State) (l : List Host.Cell) : (s.hostNews l).out = s.out := rfl
@[simp] theorem State.hostNews_fallow (s : State) (l : List Host.Cell) : (s.hostNews l).fallow = s.fallow := rfl
@[simp] theorem State.hostNews_free (s : State) (l : List Host.Cell) : (s.hostNews l).free = s.free := rfl

/-! ### emit -/

@[simp] theorem State.emit_pending (s : State) (o : OutEv) : (s.emit o).pending = s.pending := rfl
@[simp] theorem State.emit_mode (s : State) (o : OutEv) : (s.emit o).mode = s.mode := rfl
@[simp] theorem State.emit_glb (s : State) (o : OutEv) : (s.emit o).glb = s.glb := rfl
@[simp] theorem State.emit_parts (s : State) (o : OutEv) : (s.emit o).parts = s.parts := rfl
@[simp] theorem State.emit_hops (s : State) (o : OutEv) : (s.emit o).hops = s.hops := rfl
@[simp] theorem State.emit_served (s : State) (o : OutEv) : (s.emit o).served = s.served := rfl
@[simp] theorem State.emit_pkts (s : State) (o : OutEv) : (s.emit o).pkts = s.pkts := rfl
@[simp] theorem State.emit_nextId (s : State) (o : OutEv) : (s.emit o).nextId = s.nextId := rfl
@[simp] theorem State.emit_ctxs (s : State) (o : OutEv) : (s.emit o).ctxs = s.ctxs := rfl
@[simp] theorem State.emit_engines (s : State) (o : OutEv) : (s.emit o).engines = s.engines := rfl
@[simp] theorem State.emit_mem (s : State) (o : OutEv) : (s.emit o).mem = s.mem := rfl
@[simp] theorem State.emit_wins (s : State) (o : OutEv) : (s.emit o).wins = s.wins := rfl
@[simp] theorem State.emit_host (s : State) (o : OutEv) : (s.emit o).host = s.host := rfl
@[simp] theorem State.emit_regions (s : State) (o : OutEv) : (s.emit o).regions = s.regions := rfl
@[simp] theorem State.emit_sec (s : State) (o : OutEv) : (s.emit o).sec = s.sec := rfl
@[simp] theorem State.emit_err (s : State) (o : OutEv) : (s.emit o).err = s.err := rfl
@[simp] theorem State.emit_aon (s : State) (o : OutEv) : (s.emit o).aon = s.aon := rfl
@[simp] theorem State.emit_image (s : State) (o : OutEv) : (s.emit o).image = s.image := rfl
@[simp] theorem State.emit_pwr (s : State) (o : OutEv) : (s.emit o).pwr = s.pwr := rfl
@[simp] theorem State.emit_flash (s : State) (o : OutEv) : (s.emit o).flash = s.flash := rfl
@[simp] theorem State.emit_pins (s : State) (o : OutEv) : (s.emit o).pins = s.pins := rfl
@[simp] theorem State.emit_tap (s : State) (o : OutEv) : (s.emit o).tap = s.tap := rfl
@[simp] theorem State.emit_msix (s : State) (o : OutEv) : (s.emit o).msix = s.msix := rfl
@[simp] theorem State.emit_ports (s : State) (o : OutEv) : (s.emit o).ports = s.ports := rfl
@[simp] theorem State.emit_herd (s : State) (o : OutEv) : (s.emit o).herd = s.herd := rfl
@[simp] theorem State.emit_train (s : State) (o : OutEv) : (s.emit o).train = s.train := rfl
@[simp] theorem State.emit_replay (s : State) (o : OutEv) : (s.emit o).replay = s.replay := rfl
@[simp] theorem State.emit_verdictLost (s : State) (o : OutEv) : (s.emit o).verdictLost = s.verdictLost := rfl
@[simp] theorem State.emit_time (s : State) (o : OutEv) : (s.emit o).time = s.time := rfl
@[simp] theorem State.emit_frac (s : State) (o : OutEv) : (s.emit o).frac = s.frac := rfl
@[simp] theorem State.emit_out (s : State) (o : OutEv) : (s.emit o).out = o :: s.out := rfl
@[simp] theorem State.emit_fallow (s : State) (o : OutEv) : (s.emit o).fallow = s.fallow := rfl
@[simp] theorem State.emit_free (s : State) (o : OutEv) : (s.emit o).free = s.free := rfl

/-! ### draw -/

@[simp] theorem State.draw_pending (s : State) : (s.draw).pending = s.pending := rfl
@[simp] theorem State.draw_mode (s : State) : (s.draw).mode = s.mode := rfl
@[simp] theorem State.draw_glb (s : State) : (s.draw).glb = s.glb := rfl
@[simp] theorem State.draw_parts (s : State) : (s.draw).parts = s.parts := rfl
@[simp] theorem State.draw_hops (s : State) : (s.draw).hops = s.hops := rfl
@[simp] theorem State.draw_served (s : State) : (s.draw).served = s.served := rfl
@[simp] theorem State.draw_pkts (s : State) : (s.draw).pkts = s.pkts := rfl
@[simp] theorem State.draw_nextId (s : State) : (s.draw).nextId = s.nextId := rfl
@[simp] theorem State.draw_ctxs (s : State) : (s.draw).ctxs = s.ctxs := rfl
@[simp] theorem State.draw_engines (s : State) : (s.draw).engines = s.engines := rfl
@[simp] theorem State.draw_mem (s : State) : (s.draw).mem = s.mem := rfl
@[simp] theorem State.draw_wins (s : State) : (s.draw).wins = s.wins := rfl
@[simp] theorem State.draw_host (s : State) : (s.draw).host = s.host := rfl
@[simp] theorem State.draw_regions (s : State) : (s.draw).regions = s.regions := rfl
@[simp] theorem State.draw_sec (s : State) : (s.draw).sec = s.sec := rfl
@[simp] theorem State.draw_err (s : State) : (s.draw).err = s.err := rfl
@[simp] theorem State.draw_aon (s : State) : (s.draw).aon = s.aon := rfl
@[simp] theorem State.draw_image (s : State) : (s.draw).image = s.image := rfl
@[simp] theorem State.draw_pwr (s : State) : (s.draw).pwr = s.pwr := rfl
@[simp] theorem State.draw_flash (s : State) : (s.draw).flash = s.flash := rfl
@[simp] theorem State.draw_pins (s : State) : (s.draw).pins = s.pins := rfl
@[simp] theorem State.draw_tap (s : State) : (s.draw).tap = s.tap := rfl
@[simp] theorem State.draw_msix (s : State) : (s.draw).msix = s.msix := rfl
@[simp] theorem State.draw_ports (s : State) : (s.draw).ports = s.ports := rfl
@[simp] theorem State.draw_herd (s : State) : (s.draw).herd = s.herd := rfl
@[simp] theorem State.draw_train (s : State) : (s.draw).train = s.train := rfl
@[simp] theorem State.draw_replay (s : State) : (s.draw).replay = s.replay := rfl
@[simp] theorem State.draw_verdictLost (s : State) : (s.draw).verdictLost = s.verdictLost := rfl
@[simp] theorem State.draw_time (s : State) : (s.draw).time = s.time := rfl
@[simp] theorem State.draw_frac (s : State) : (s.draw).frac = s.frac := rfl
@[simp] theorem State.draw_out (s : State) : (s.draw).out = s.out := rfl
@[simp] theorem State.draw_fallow (s : State) : (s.draw).fallow = s.fallow := rfl
@[simp] theorem State.draw_free (s : State) : (s.draw).free = s.free + 1 := rfl

/-! ### withdraw -/

@[simp] theorem State.withdraw_pending (s : State) : (s.withdraw).pending = s.pending := rfl
@[simp] theorem State.withdraw_mode (s : State) : (s.withdraw).mode = s.mode := rfl
@[simp] theorem State.withdraw_glb (s : State) : (s.withdraw).glb = s.glb := rfl
@[simp] theorem State.withdraw_parts (s : State) : (s.withdraw).parts = s.parts := rfl
@[simp] theorem State.withdraw_hops (s : State) : (s.withdraw).hops = s.hops := rfl
@[simp] theorem State.withdraw_served (s : State) : (s.withdraw).served = s.served := rfl
@[simp] theorem State.withdraw_pkts (s : State) : (s.withdraw).pkts = s.pkts := rfl
@[simp] theorem State.withdraw_nextId (s : State) : (s.withdraw).nextId = s.nextId := rfl
@[simp] theorem State.withdraw_ctxs (s : State) : (s.withdraw).ctxs = s.ctxs := rfl
@[simp] theorem State.withdraw_engines (s : State) : (s.withdraw).engines = s.engines := rfl
@[simp] theorem State.withdraw_mem (s : State) : (s.withdraw).mem = s.mem := rfl
@[simp] theorem State.withdraw_wins (s : State) : (s.withdraw).wins = s.wins := rfl
@[simp] theorem State.withdraw_host (s : State) : (s.withdraw).host = s.host := rfl
@[simp] theorem State.withdraw_regions (s : State) : (s.withdraw).regions = s.regions := rfl
@[simp] theorem State.withdraw_sec (s : State) : (s.withdraw).sec = s.sec := rfl
@[simp] theorem State.withdraw_err (s : State) : (s.withdraw).err = s.err := rfl
@[simp] theorem State.withdraw_aon (s : State) : (s.withdraw).aon = s.aon := rfl
@[simp] theorem State.withdraw_image (s : State) : (s.withdraw).image = s.image := rfl
@[simp] theorem State.withdraw_pwr (s : State) : (s.withdraw).pwr = { s.pwr with deepGrant := false } := rfl
@[simp] theorem State.withdraw_flash (s : State) : (s.withdraw).flash = s.flash := rfl
@[simp] theorem State.withdraw_pins (s : State) : (s.withdraw).pins = s.pins := rfl
@[simp] theorem State.withdraw_tap (s : State) : (s.withdraw).tap = s.tap := rfl
@[simp] theorem State.withdraw_msix (s : State) : (s.withdraw).msix = s.msix := rfl
@[simp] theorem State.withdraw_ports (s : State) : (s.withdraw).ports = s.ports := rfl
@[simp] theorem State.withdraw_herd (s : State) : (s.withdraw).herd = s.herd := rfl
@[simp] theorem State.withdraw_train (s : State) : (s.withdraw).train = s.train := rfl
@[simp] theorem State.withdraw_replay (s : State) : (s.withdraw).replay = s.replay := rfl
@[simp] theorem State.withdraw_verdictLost (s : State) : (s.withdraw).verdictLost = s.verdictLost := rfl
@[simp] theorem State.withdraw_time (s : State) : (s.withdraw).time = s.time := rfl
@[simp] theorem State.withdraw_frac (s : State) : (s.withdraw).frac = s.frac := rfl
@[simp] theorem State.withdraw_out (s : State) : (s.withdraw).out = s.out := rfl
@[simp] theorem State.withdraw_fallow (s : State) : (s.withdraw).fallow = s.fallow := rfl
@[simp] theorem State.withdraw_free (s : State) : (s.withdraw).free = s.free := rfl

/-! ### endHint -/

@[simp] theorem State.endHint_pending (s : State) (p : Nat) : (s.endHint p).pending = s.pending := rfl
@[simp] theorem State.endHint_mode (s : State) (p : Nat) : (s.endHint p).mode = s.mode := rfl
@[simp] theorem State.endHint_glb (s : State) (p : Nat) : (s.endHint p).glb = s.glb := rfl
@[simp] theorem State.endHint_parts (s : State) (p : Nat) : (s.endHint p).parts = s.parts.modify p fun q => { q with hint := none } := rfl
@[simp] theorem State.endHint_hops (s : State) (p : Nat) : (s.endHint p).hops = s.hops := rfl
@[simp] theorem State.endHint_served (s : State) (p : Nat) : (s.endHint p).served = s.served := rfl
@[simp] theorem State.endHint_pkts (s : State) (p : Nat) : (s.endHint p).pkts = s.pkts := rfl
@[simp] theorem State.endHint_nextId (s : State) (p : Nat) : (s.endHint p).nextId = s.nextId := rfl
@[simp] theorem State.endHint_ctxs (s : State) (p : Nat) : (s.endHint p).ctxs = s.ctxs := rfl
@[simp] theorem State.endHint_engines (s : State) (p : Nat) : (s.endHint p).engines = s.engines := rfl
@[simp] theorem State.endHint_mem (s : State) (p : Nat) : (s.endHint p).mem = s.mem := rfl
@[simp] theorem State.endHint_wins (s : State) (p : Nat) : (s.endHint p).wins = s.wins := rfl
@[simp] theorem State.endHint_host (s : State) (p : Nat) : (s.endHint p).host = s.host := rfl
@[simp] theorem State.endHint_regions (s : State) (p : Nat) : (s.endHint p).regions = s.regions := rfl
@[simp] theorem State.endHint_sec (s : State) (p : Nat) : (s.endHint p).sec = s.sec := rfl
@[simp] theorem State.endHint_err (s : State) (p : Nat) : (s.endHint p).err = s.err := rfl
@[simp] theorem State.endHint_aon (s : State) (p : Nat) : (s.endHint p).aon = s.aon := rfl
@[simp] theorem State.endHint_image (s : State) (p : Nat) : (s.endHint p).image = s.image := rfl
@[simp] theorem State.endHint_pwr (s : State) (p : Nat) : (s.endHint p).pwr = s.pwr := rfl
@[simp] theorem State.endHint_flash (s : State) (p : Nat) : (s.endHint p).flash = s.flash := rfl
@[simp] theorem State.endHint_pins (s : State) (p : Nat) : (s.endHint p).pins = s.pins := rfl
@[simp] theorem State.endHint_tap (s : State) (p : Nat) : (s.endHint p).tap = s.tap := rfl
@[simp] theorem State.endHint_msix (s : State) (p : Nat) : (s.endHint p).msix = s.msix := rfl
@[simp] theorem State.endHint_ports (s : State) (p : Nat) : (s.endHint p).ports = s.ports := rfl
@[simp] theorem State.endHint_herd (s : State) (p : Nat) : (s.endHint p).herd = s.herd := rfl
@[simp] theorem State.endHint_train (s : State) (p : Nat) : (s.endHint p).train = s.train := rfl
@[simp] theorem State.endHint_replay (s : State) (p : Nat) : (s.endHint p).replay = s.replay := rfl
@[simp] theorem State.endHint_verdictLost (s : State) (p : Nat) : (s.endHint p).verdictLost = s.verdictLost := rfl
@[simp] theorem State.endHint_time (s : State) (p : Nat) : (s.endHint p).time = s.time := rfl
@[simp] theorem State.endHint_frac (s : State) (p : Nat) : (s.endHint p).frac = s.frac := rfl
@[simp] theorem State.endHint_out (s : State) (p : Nat) : (s.endHint p).out = s.out := rfl
@[simp] theorem State.endHint_fallow (s : State) (p : Nat) : (s.endHint p).fallow = s.fallow := rfl
@[simp] theorem State.endHint_free (s : State) (p : Nat) : (s.endHint p).free = s.free := rfl

/-! ### modWin -/

@[simp] theorem State.modWin_pending (s : State) (n : Nat) (f : Window → Window) : (s.modWin n f).pending = s.pending := rfl
@[simp] theorem State.modWin_mode (s : State) (n : Nat) (f : Window → Window) : (s.modWin n f).mode = s.mode := rfl
@[simp] theorem State.modWin_glb (s : State) (n : Nat) (f : Window → Window) : (s.modWin n f).glb = s.glb := rfl
@[simp] theorem State.modWin_parts (s : State) (n : Nat) (f : Window → Window) : (s.modWin n f).parts = s.parts := rfl
@[simp] theorem State.modWin_hops (s : State) (n : Nat) (f : Window → Window) : (s.modWin n f).hops = s.hops := rfl
@[simp] theorem State.modWin_served (s : State) (n : Nat) (f : Window → Window) : (s.modWin n f).served = s.served := rfl
@[simp] theorem State.modWin_pkts (s : State) (n : Nat) (f : Window → Window) : (s.modWin n f).pkts = s.pkts := rfl
@[simp] theorem State.modWin_nextId (s : State) (n : Nat) (f : Window → Window) : (s.modWin n f).nextId = s.nextId := rfl
@[simp] theorem State.modWin_ctxs (s : State) (n : Nat) (f : Window → Window) : (s.modWin n f).ctxs = s.ctxs := rfl
@[simp] theorem State.modWin_engines (s : State) (n : Nat) (f : Window → Window) : (s.modWin n f).engines = s.engines := rfl
@[simp] theorem State.modWin_mem (s : State) (n : Nat) (f : Window → Window) : (s.modWin n f).mem = s.mem := rfl
@[simp] theorem State.modWin_wins (s : State) (n : Nat) (f : Window → Window) : (s.modWin n f).wins = s.wins.modify n f := rfl
@[simp] theorem State.modWin_host (s : State) (n : Nat) (f : Window → Window) : (s.modWin n f).host = s.host := rfl
@[simp] theorem State.modWin_regions (s : State) (n : Nat) (f : Window → Window) : (s.modWin n f).regions = s.regions := rfl
@[simp] theorem State.modWin_sec (s : State) (n : Nat) (f : Window → Window) : (s.modWin n f).sec = s.sec := rfl
@[simp] theorem State.modWin_err (s : State) (n : Nat) (f : Window → Window) : (s.modWin n f).err = s.err := rfl
@[simp] theorem State.modWin_aon (s : State) (n : Nat) (f : Window → Window) : (s.modWin n f).aon = s.aon := rfl
@[simp] theorem State.modWin_image (s : State) (n : Nat) (f : Window → Window) : (s.modWin n f).image = s.image := rfl
@[simp] theorem State.modWin_pwr (s : State) (n : Nat) (f : Window → Window) : (s.modWin n f).pwr = s.pwr := rfl
@[simp] theorem State.modWin_flash (s : State) (n : Nat) (f : Window → Window) : (s.modWin n f).flash = s.flash := rfl
@[simp] theorem State.modWin_pins (s : State) (n : Nat) (f : Window → Window) : (s.modWin n f).pins = s.pins := rfl
@[simp] theorem State.modWin_tap (s : State) (n : Nat) (f : Window → Window) : (s.modWin n f).tap = s.tap := rfl
@[simp] theorem State.modWin_msix (s : State) (n : Nat) (f : Window → Window) : (s.modWin n f).msix = s.msix := rfl
@[simp] theorem State.modWin_ports (s : State) (n : Nat) (f : Window → Window) : (s.modWin n f).ports = s.ports := rfl
@[simp] theorem State.modWin_herd (s : State) (n : Nat) (f : Window → Window) : (s.modWin n f).herd = s.herd := rfl
@[simp] theorem State.modWin_train (s : State) (n : Nat) (f : Window → Window) : (s.modWin n f).train = s.train := rfl
@[simp] theorem State.modWin_replay (s : State) (n : Nat) (f : Window → Window) : (s.modWin n f).replay = s.replay := rfl
@[simp] theorem State.modWin_verdictLost (s : State) (n : Nat) (f : Window → Window) : (s.modWin n f).verdictLost = s.verdictLost := rfl
@[simp] theorem State.modWin_time (s : State) (n : Nat) (f : Window → Window) : (s.modWin n f).time = s.time := rfl
@[simp] theorem State.modWin_frac (s : State) (n : Nat) (f : Window → Window) : (s.modWin n f).frac = s.frac := rfl
@[simp] theorem State.modWin_out (s : State) (n : Nat) (f : Window → Window) : (s.modWin n f).out = s.out := rfl
@[simp] theorem State.modWin_fallow (s : State) (n : Nat) (f : Window → Window) : (s.modWin n f).fallow = s.fallow := rfl
@[simp] theorem State.modWin_free (s : State) (n : Nat) (f : Window → Window) : (s.modWin n f).free = s.free := rfl

/-! ### modPort -/

@[simp] theorem State.modPort_pending (s : State) (p : Nat) (f : Port → Port) : (s.modPort p f).pending = s.pending := rfl
@[simp] theorem State.modPort_mode (s : State) (p : Nat) (f : Port → Port) : (s.modPort p f).mode = s.mode := rfl
@[simp] theorem State.modPort_glb (s : State) (p : Nat) (f : Port → Port) : (s.modPort p f).glb = s.glb := rfl
@[simp] theorem State.modPort_parts (s : State) (p : Nat) (f : Port → Port) : (s.modPort p f).parts = s.parts := rfl
@[simp] theorem State.modPort_hops (s : State) (p : Nat) (f : Port → Port) : (s.modPort p f).hops = s.hops := rfl
@[simp] theorem State.modPort_served (s : State) (p : Nat) (f : Port → Port) : (s.modPort p f).served = s.served := rfl
@[simp] theorem State.modPort_pkts (s : State) (p : Nat) (f : Port → Port) : (s.modPort p f).pkts = s.pkts := rfl
@[simp] theorem State.modPort_nextId (s : State) (p : Nat) (f : Port → Port) : (s.modPort p f).nextId = s.nextId := rfl
@[simp] theorem State.modPort_ctxs (s : State) (p : Nat) (f : Port → Port) : (s.modPort p f).ctxs = s.ctxs := rfl
@[simp] theorem State.modPort_engines (s : State) (p : Nat) (f : Port → Port) : (s.modPort p f).engines = s.engines := rfl
@[simp] theorem State.modPort_mem (s : State) (p : Nat) (f : Port → Port) : (s.modPort p f).mem = s.mem := rfl
@[simp] theorem State.modPort_wins (s : State) (p : Nat) (f : Port → Port) : (s.modPort p f).wins = s.wins := rfl
@[simp] theorem State.modPort_host (s : State) (p : Nat) (f : Port → Port) : (s.modPort p f).host = s.host := rfl
@[simp] theorem State.modPort_regions (s : State) (p : Nat) (f : Port → Port) : (s.modPort p f).regions = s.regions := rfl
@[simp] theorem State.modPort_sec (s : State) (p : Nat) (f : Port → Port) : (s.modPort p f).sec = s.sec := rfl
@[simp] theorem State.modPort_err (s : State) (p : Nat) (f : Port → Port) : (s.modPort p f).err = s.err := rfl
@[simp] theorem State.modPort_aon (s : State) (p : Nat) (f : Port → Port) : (s.modPort p f).aon = s.aon := rfl
@[simp] theorem State.modPort_image (s : State) (p : Nat) (f : Port → Port) : (s.modPort p f).image = s.image := rfl
@[simp] theorem State.modPort_pwr (s : State) (p : Nat) (f : Port → Port) : (s.modPort p f).pwr = s.pwr := rfl
@[simp] theorem State.modPort_flash (s : State) (p : Nat) (f : Port → Port) : (s.modPort p f).flash = s.flash := rfl
@[simp] theorem State.modPort_pins (s : State) (p : Nat) (f : Port → Port) : (s.modPort p f).pins = s.pins := rfl
@[simp] theorem State.modPort_tap (s : State) (p : Nat) (f : Port → Port) : (s.modPort p f).tap = s.tap := rfl
@[simp] theorem State.modPort_msix (s : State) (p : Nat) (f : Port → Port) : (s.modPort p f).msix = s.msix := rfl
@[simp] theorem State.modPort_ports (s : State) (p : Nat) (f : Port → Port) : (s.modPort p f).ports = s.ports.modify p f := rfl
@[simp] theorem State.modPort_herd (s : State) (p : Nat) (f : Port → Port) : (s.modPort p f).herd = s.herd := rfl
@[simp] theorem State.modPort_train (s : State) (p : Nat) (f : Port → Port) : (s.modPort p f).train = s.train := rfl
@[simp] theorem State.modPort_replay (s : State) (p : Nat) (f : Port → Port) : (s.modPort p f).replay = s.replay := rfl
@[simp] theorem State.modPort_verdictLost (s : State) (p : Nat) (f : Port → Port) : (s.modPort p f).verdictLost = s.verdictLost := rfl
@[simp] theorem State.modPort_time (s : State) (p : Nat) (f : Port → Port) : (s.modPort p f).time = s.time := rfl
@[simp] theorem State.modPort_frac (s : State) (p : Nat) (f : Port → Port) : (s.modPort p f).frac = s.frac := rfl
@[simp] theorem State.modPort_out (s : State) (p : Nat) (f : Port → Port) : (s.modPort p f).out = s.out := rfl
@[simp] theorem State.modPort_fallow (s : State) (p : Nat) (f : Port → Port) : (s.modPort p f).fallow = s.fallow := rfl
@[simp] theorem State.modPort_free (s : State) (p : Nat) (f : Port → Port) : (s.modPort p f).free = s.free := rfl

/-! ### modSec -/

@[simp] theorem State.modSec_pending (s : State) (f : Sec → Sec) : (s.modSec f).pending = s.pending := rfl
@[simp] theorem State.modSec_mode (s : State) (f : Sec → Sec) : (s.modSec f).mode = s.mode := rfl
@[simp] theorem State.modSec_glb (s : State) (f : Sec → Sec) : (s.modSec f).glb = s.glb := rfl
@[simp] theorem State.modSec_parts (s : State) (f : Sec → Sec) : (s.modSec f).parts = s.parts := rfl
@[simp] theorem State.modSec_hops (s : State) (f : Sec → Sec) : (s.modSec f).hops = s.hops := rfl
@[simp] theorem State.modSec_served (s : State) (f : Sec → Sec) : (s.modSec f).served = s.served := rfl
@[simp] theorem State.modSec_pkts (s : State) (f : Sec → Sec) : (s.modSec f).pkts = s.pkts := rfl
@[simp] theorem State.modSec_nextId (s : State) (f : Sec → Sec) : (s.modSec f).nextId = s.nextId := rfl
@[simp] theorem State.modSec_ctxs (s : State) (f : Sec → Sec) : (s.modSec f).ctxs = s.ctxs := rfl
@[simp] theorem State.modSec_engines (s : State) (f : Sec → Sec) : (s.modSec f).engines = s.engines := rfl
@[simp] theorem State.modSec_mem (s : State) (f : Sec → Sec) : (s.modSec f).mem = s.mem := rfl
@[simp] theorem State.modSec_wins (s : State) (f : Sec → Sec) : (s.modSec f).wins = s.wins := rfl
@[simp] theorem State.modSec_host (s : State) (f : Sec → Sec) : (s.modSec f).host = s.host := rfl
@[simp] theorem State.modSec_regions (s : State) (f : Sec → Sec) : (s.modSec f).regions = s.regions := rfl
@[simp] theorem State.modSec_sec (s : State) (f : Sec → Sec) : (s.modSec f).sec = f s.sec := rfl
@[simp] theorem State.modSec_err (s : State) (f : Sec → Sec) : (s.modSec f).err = s.err := rfl
@[simp] theorem State.modSec_aon (s : State) (f : Sec → Sec) : (s.modSec f).aon = s.aon := rfl
@[simp] theorem State.modSec_image (s : State) (f : Sec → Sec) : (s.modSec f).image = s.image := rfl
@[simp] theorem State.modSec_pwr (s : State) (f : Sec → Sec) : (s.modSec f).pwr = s.pwr := rfl
@[simp] theorem State.modSec_flash (s : State) (f : Sec → Sec) : (s.modSec f).flash = s.flash := rfl
@[simp] theorem State.modSec_pins (s : State) (f : Sec → Sec) : (s.modSec f).pins = s.pins := rfl
@[simp] theorem State.modSec_tap (s : State) (f : Sec → Sec) : (s.modSec f).tap = s.tap := rfl
@[simp] theorem State.modSec_msix (s : State) (f : Sec → Sec) : (s.modSec f).msix = s.msix := rfl
@[simp] theorem State.modSec_ports (s : State) (f : Sec → Sec) : (s.modSec f).ports = s.ports := rfl
@[simp] theorem State.modSec_herd (s : State) (f : Sec → Sec) : (s.modSec f).herd = s.herd := rfl
@[simp] theorem State.modSec_train (s : State) (f : Sec → Sec) : (s.modSec f).train = s.train := rfl
@[simp] theorem State.modSec_replay (s : State) (f : Sec → Sec) : (s.modSec f).replay = s.replay := rfl
@[simp] theorem State.modSec_verdictLost (s : State) (f : Sec → Sec) : (s.modSec f).verdictLost = s.verdictLost := rfl
@[simp] theorem State.modSec_time (s : State) (f : Sec → Sec) : (s.modSec f).time = s.time := rfl
@[simp] theorem State.modSec_frac (s : State) (f : Sec → Sec) : (s.modSec f).frac = s.frac := rfl
@[simp] theorem State.modSec_out (s : State) (f : Sec → Sec) : (s.modSec f).out = s.out := rfl
@[simp] theorem State.modSec_fallow (s : State) (f : Sec → Sec) : (s.modSec f).fallow = s.fallow := rfl
@[simp] theorem State.modSec_free (s : State) (f : Sec → Sec) : (s.modSec f).free = s.free := rfl

/-! ### modFlash -/

@[simp] theorem State.modFlash_pending (s : State) (f : Flash → Flash) : (s.modFlash f).pending = s.pending := rfl
@[simp] theorem State.modFlash_mode (s : State) (f : Flash → Flash) : (s.modFlash f).mode = s.mode := rfl
@[simp] theorem State.modFlash_glb (s : State) (f : Flash → Flash) : (s.modFlash f).glb = s.glb := rfl
@[simp] theorem State.modFlash_parts (s : State) (f : Flash → Flash) : (s.modFlash f).parts = s.parts := rfl
@[simp] theorem State.modFlash_hops (s : State) (f : Flash → Flash) : (s.modFlash f).hops = s.hops := rfl
@[simp] theorem State.modFlash_served (s : State) (f : Flash → Flash) : (s.modFlash f).served = s.served := rfl
@[simp] theorem State.modFlash_pkts (s : State) (f : Flash → Flash) : (s.modFlash f).pkts = s.pkts := rfl
@[simp] theorem State.modFlash_nextId (s : State) (f : Flash → Flash) : (s.modFlash f).nextId = s.nextId := rfl
@[simp] theorem State.modFlash_ctxs (s : State) (f : Flash → Flash) : (s.modFlash f).ctxs = s.ctxs := rfl
@[simp] theorem State.modFlash_engines (s : State) (f : Flash → Flash) : (s.modFlash f).engines = s.engines := rfl
@[simp] theorem State.modFlash_mem (s : State) (f : Flash → Flash) : (s.modFlash f).mem = s.mem := rfl
@[simp] theorem State.modFlash_wins (s : State) (f : Flash → Flash) : (s.modFlash f).wins = s.wins := rfl
@[simp] theorem State.modFlash_host (s : State) (f : Flash → Flash) : (s.modFlash f).host = s.host := rfl
@[simp] theorem State.modFlash_regions (s : State) (f : Flash → Flash) : (s.modFlash f).regions = s.regions := rfl
@[simp] theorem State.modFlash_sec (s : State) (f : Flash → Flash) : (s.modFlash f).sec = s.sec := rfl
@[simp] theorem State.modFlash_err (s : State) (f : Flash → Flash) : (s.modFlash f).err = s.err := rfl
@[simp] theorem State.modFlash_aon (s : State) (f : Flash → Flash) : (s.modFlash f).aon = s.aon := rfl
@[simp] theorem State.modFlash_image (s : State) (f : Flash → Flash) : (s.modFlash f).image = s.image := rfl
@[simp] theorem State.modFlash_pwr (s : State) (f : Flash → Flash) : (s.modFlash f).pwr = s.pwr := rfl
@[simp] theorem State.modFlash_flash (s : State) (f : Flash → Flash) : (s.modFlash f).flash = f s.flash := rfl
@[simp] theorem State.modFlash_pins (s : State) (f : Flash → Flash) : (s.modFlash f).pins = s.pins := rfl
@[simp] theorem State.modFlash_tap (s : State) (f : Flash → Flash) : (s.modFlash f).tap = s.tap := rfl
@[simp] theorem State.modFlash_msix (s : State) (f : Flash → Flash) : (s.modFlash f).msix = s.msix := rfl
@[simp] theorem State.modFlash_ports (s : State) (f : Flash → Flash) : (s.modFlash f).ports = s.ports := rfl
@[simp] theorem State.modFlash_herd (s : State) (f : Flash → Flash) : (s.modFlash f).herd = s.herd := rfl
@[simp] theorem State.modFlash_train (s : State) (f : Flash → Flash) : (s.modFlash f).train = s.train := rfl
@[simp] theorem State.modFlash_replay (s : State) (f : Flash → Flash) : (s.modFlash f).replay = s.replay := rfl
@[simp] theorem State.modFlash_verdictLost (s : State) (f : Flash → Flash) : (s.modFlash f).verdictLost = s.verdictLost := rfl
@[simp] theorem State.modFlash_time (s : State) (f : Flash → Flash) : (s.modFlash f).time = s.time := rfl
@[simp] theorem State.modFlash_frac (s : State) (f : Flash → Flash) : (s.modFlash f).frac = s.frac := rfl
@[simp] theorem State.modFlash_out (s : State) (f : Flash → Flash) : (s.modFlash f).out = s.out := rfl
@[simp] theorem State.modFlash_fallow (s : State) (f : Flash → Flash) : (s.modFlash f).fallow = s.fallow := rfl
@[simp] theorem State.modFlash_free (s : State) (f : Flash → Flash) : (s.modFlash f).free = s.free := rfl

/-! ### modAon -/

@[simp] theorem State.modAon_pending (s : State) (f : Aon → Aon) : (s.modAon f).pending = s.pending := rfl
@[simp] theorem State.modAon_mode (s : State) (f : Aon → Aon) : (s.modAon f).mode = s.mode := rfl
@[simp] theorem State.modAon_glb (s : State) (f : Aon → Aon) : (s.modAon f).glb = s.glb := rfl
@[simp] theorem State.modAon_parts (s : State) (f : Aon → Aon) : (s.modAon f).parts = s.parts := rfl
@[simp] theorem State.modAon_hops (s : State) (f : Aon → Aon) : (s.modAon f).hops = s.hops := rfl
@[simp] theorem State.modAon_served (s : State) (f : Aon → Aon) : (s.modAon f).served = s.served := rfl
@[simp] theorem State.modAon_pkts (s : State) (f : Aon → Aon) : (s.modAon f).pkts = s.pkts := rfl
@[simp] theorem State.modAon_nextId (s : State) (f : Aon → Aon) : (s.modAon f).nextId = s.nextId := rfl
@[simp] theorem State.modAon_ctxs (s : State) (f : Aon → Aon) : (s.modAon f).ctxs = s.ctxs := rfl
@[simp] theorem State.modAon_engines (s : State) (f : Aon → Aon) : (s.modAon f).engines = s.engines := rfl
@[simp] theorem State.modAon_mem (s : State) (f : Aon → Aon) : (s.modAon f).mem = s.mem := rfl
@[simp] theorem State.modAon_wins (s : State) (f : Aon → Aon) : (s.modAon f).wins = s.wins := rfl
@[simp] theorem State.modAon_host (s : State) (f : Aon → Aon) : (s.modAon f).host = s.host := rfl
@[simp] theorem State.modAon_regions (s : State) (f : Aon → Aon) : (s.modAon f).regions = s.regions := rfl
@[simp] theorem State.modAon_sec (s : State) (f : Aon → Aon) : (s.modAon f).sec = s.sec := rfl
@[simp] theorem State.modAon_err (s : State) (f : Aon → Aon) : (s.modAon f).err = s.err := rfl
@[simp] theorem State.modAon_aon (s : State) (f : Aon → Aon) : (s.modAon f).aon = f s.aon := rfl
@[simp] theorem State.modAon_image (s : State) (f : Aon → Aon) : (s.modAon f).image = s.image := rfl
@[simp] theorem State.modAon_pwr (s : State) (f : Aon → Aon) : (s.modAon f).pwr = s.pwr := rfl
@[simp] theorem State.modAon_flash (s : State) (f : Aon → Aon) : (s.modAon f).flash = s.flash := rfl
@[simp] theorem State.modAon_pins (s : State) (f : Aon → Aon) : (s.modAon f).pins = s.pins := rfl
@[simp] theorem State.modAon_tap (s : State) (f : Aon → Aon) : (s.modAon f).tap = s.tap := rfl
@[simp] theorem State.modAon_msix (s : State) (f : Aon → Aon) : (s.modAon f).msix = s.msix := rfl
@[simp] theorem State.modAon_ports (s : State) (f : Aon → Aon) : (s.modAon f).ports = s.ports := rfl
@[simp] theorem State.modAon_herd (s : State) (f : Aon → Aon) : (s.modAon f).herd = s.herd := rfl
@[simp] theorem State.modAon_train (s : State) (f : Aon → Aon) : (s.modAon f).train = s.train := rfl
@[simp] theorem State.modAon_replay (s : State) (f : Aon → Aon) : (s.modAon f).replay = s.replay := rfl
@[simp] theorem State.modAon_verdictLost (s : State) (f : Aon → Aon) : (s.modAon f).verdictLost = s.verdictLost := rfl
@[simp] theorem State.modAon_time (s : State) (f : Aon → Aon) : (s.modAon f).time = s.time := rfl
@[simp] theorem State.modAon_frac (s : State) (f : Aon → Aon) : (s.modAon f).frac = s.frac := rfl
@[simp] theorem State.modAon_out (s : State) (f : Aon → Aon) : (s.modAon f).out = s.out := rfl
@[simp] theorem State.modAon_fallow (s : State) (f : Aon → Aon) : (s.modAon f).fallow = s.fallow := rfl
@[simp] theorem State.modAon_free (s : State) (f : Aon → Aon) : (s.modAon f).free = s.free := rfl

/-! ### modPwr -/

@[simp] theorem State.modPwr_pending (s : State) (f : Pwr → Pwr) : (s.modPwr f).pending = s.pending := rfl
@[simp] theorem State.modPwr_mode (s : State) (f : Pwr → Pwr) : (s.modPwr f).mode = s.mode := rfl
@[simp] theorem State.modPwr_glb (s : State) (f : Pwr → Pwr) : (s.modPwr f).glb = s.glb := rfl
@[simp] theorem State.modPwr_parts (s : State) (f : Pwr → Pwr) : (s.modPwr f).parts = s.parts := rfl
@[simp] theorem State.modPwr_hops (s : State) (f : Pwr → Pwr) : (s.modPwr f).hops = s.hops := rfl
@[simp] theorem State.modPwr_served (s : State) (f : Pwr → Pwr) : (s.modPwr f).served = s.served := rfl
@[simp] theorem State.modPwr_pkts (s : State) (f : Pwr → Pwr) : (s.modPwr f).pkts = s.pkts := rfl
@[simp] theorem State.modPwr_nextId (s : State) (f : Pwr → Pwr) : (s.modPwr f).nextId = s.nextId := rfl
@[simp] theorem State.modPwr_ctxs (s : State) (f : Pwr → Pwr) : (s.modPwr f).ctxs = s.ctxs := rfl
@[simp] theorem State.modPwr_engines (s : State) (f : Pwr → Pwr) : (s.modPwr f).engines = s.engines := rfl
@[simp] theorem State.modPwr_mem (s : State) (f : Pwr → Pwr) : (s.modPwr f).mem = s.mem := rfl
@[simp] theorem State.modPwr_wins (s : State) (f : Pwr → Pwr) : (s.modPwr f).wins = s.wins := rfl
@[simp] theorem State.modPwr_host (s : State) (f : Pwr → Pwr) : (s.modPwr f).host = s.host := rfl
@[simp] theorem State.modPwr_regions (s : State) (f : Pwr → Pwr) : (s.modPwr f).regions = s.regions := rfl
@[simp] theorem State.modPwr_sec (s : State) (f : Pwr → Pwr) : (s.modPwr f).sec = s.sec := rfl
@[simp] theorem State.modPwr_err (s : State) (f : Pwr → Pwr) : (s.modPwr f).err = s.err := rfl
@[simp] theorem State.modPwr_aon (s : State) (f : Pwr → Pwr) : (s.modPwr f).aon = s.aon := rfl
@[simp] theorem State.modPwr_image (s : State) (f : Pwr → Pwr) : (s.modPwr f).image = s.image := rfl
@[simp] theorem State.modPwr_pwr (s : State) (f : Pwr → Pwr) : (s.modPwr f).pwr = f s.pwr := rfl
@[simp] theorem State.modPwr_flash (s : State) (f : Pwr → Pwr) : (s.modPwr f).flash = s.flash := rfl
@[simp] theorem State.modPwr_pins (s : State) (f : Pwr → Pwr) : (s.modPwr f).pins = s.pins := rfl
@[simp] theorem State.modPwr_tap (s : State) (f : Pwr → Pwr) : (s.modPwr f).tap = s.tap := rfl
@[simp] theorem State.modPwr_msix (s : State) (f : Pwr → Pwr) : (s.modPwr f).msix = s.msix := rfl
@[simp] theorem State.modPwr_ports (s : State) (f : Pwr → Pwr) : (s.modPwr f).ports = s.ports := rfl
@[simp] theorem State.modPwr_herd (s : State) (f : Pwr → Pwr) : (s.modPwr f).herd = s.herd := rfl
@[simp] theorem State.modPwr_train (s : State) (f : Pwr → Pwr) : (s.modPwr f).train = s.train := rfl
@[simp] theorem State.modPwr_replay (s : State) (f : Pwr → Pwr) : (s.modPwr f).replay = s.replay := rfl
@[simp] theorem State.modPwr_verdictLost (s : State) (f : Pwr → Pwr) : (s.modPwr f).verdictLost = s.verdictLost := rfl
@[simp] theorem State.modPwr_time (s : State) (f : Pwr → Pwr) : (s.modPwr f).time = s.time := rfl
@[simp] theorem State.modPwr_frac (s : State) (f : Pwr → Pwr) : (s.modPwr f).frac = s.frac := rfl
@[simp] theorem State.modPwr_out (s : State) (f : Pwr → Pwr) : (s.modPwr f).out = s.out := rfl
@[simp] theorem State.modPwr_fallow (s : State) (f : Pwr → Pwr) : (s.modPwr f).fallow = s.fallow := rfl
@[simp] theorem State.modPwr_free (s : State) (f : Pwr → Pwr) : (s.modPwr f).free = s.free := rfl

/-! ### modGlb -/

@[simp] theorem State.modGlb_pending (s : State) (f : Glb → Glb) : (s.modGlb f).pending = s.pending := rfl
@[simp] theorem State.modGlb_mode (s : State) (f : Glb → Glb) : (s.modGlb f).mode = s.mode := rfl
@[simp] theorem State.modGlb_glb (s : State) (f : Glb → Glb) : (s.modGlb f).glb = f s.glb := rfl
@[simp] theorem State.modGlb_parts (s : State) (f : Glb → Glb) : (s.modGlb f).parts = s.parts := rfl
@[simp] theorem State.modGlb_hops (s : State) (f : Glb → Glb) : (s.modGlb f).hops = s.hops := rfl
@[simp] theorem State.modGlb_served (s : State) (f : Glb → Glb) : (s.modGlb f).served = s.served := rfl
@[simp] theorem State.modGlb_pkts (s : State) (f : Glb → Glb) : (s.modGlb f).pkts = s.pkts := rfl
@[simp] theorem State.modGlb_nextId (s : State) (f : Glb → Glb) : (s.modGlb f).nextId = s.nextId := rfl
@[simp] theorem State.modGlb_ctxs (s : State) (f : Glb → Glb) : (s.modGlb f).ctxs = s.ctxs := rfl
@[simp] theorem State.modGlb_engines (s : State) (f : Glb → Glb) : (s.modGlb f).engines = s.engines := rfl
@[simp] theorem State.modGlb_mem (s : State) (f : Glb → Glb) : (s.modGlb f).mem = s.mem := rfl
@[simp] theorem State.modGlb_wins (s : State) (f : Glb → Glb) : (s.modGlb f).wins = s.wins := rfl
@[simp] theorem State.modGlb_host (s : State) (f : Glb → Glb) : (s.modGlb f).host = s.host := rfl
@[simp] theorem State.modGlb_regions (s : State) (f : Glb → Glb) : (s.modGlb f).regions = s.regions := rfl
@[simp] theorem State.modGlb_sec (s : State) (f : Glb → Glb) : (s.modGlb f).sec = s.sec := rfl
@[simp] theorem State.modGlb_err (s : State) (f : Glb → Glb) : (s.modGlb f).err = s.err := rfl
@[simp] theorem State.modGlb_aon (s : State) (f : Glb → Glb) : (s.modGlb f).aon = s.aon := rfl
@[simp] theorem State.modGlb_image (s : State) (f : Glb → Glb) : (s.modGlb f).image = s.image := rfl
@[simp] theorem State.modGlb_pwr (s : State) (f : Glb → Glb) : (s.modGlb f).pwr = s.pwr := rfl
@[simp] theorem State.modGlb_flash (s : State) (f : Glb → Glb) : (s.modGlb f).flash = s.flash := rfl
@[simp] theorem State.modGlb_pins (s : State) (f : Glb → Glb) : (s.modGlb f).pins = s.pins := rfl
@[simp] theorem State.modGlb_tap (s : State) (f : Glb → Glb) : (s.modGlb f).tap = s.tap := rfl
@[simp] theorem State.modGlb_msix (s : State) (f : Glb → Glb) : (s.modGlb f).msix = s.msix := rfl
@[simp] theorem State.modGlb_ports (s : State) (f : Glb → Glb) : (s.modGlb f).ports = s.ports := rfl
@[simp] theorem State.modGlb_herd (s : State) (f : Glb → Glb) : (s.modGlb f).herd = s.herd := rfl
@[simp] theorem State.modGlb_train (s : State) (f : Glb → Glb) : (s.modGlb f).train = s.train := rfl
@[simp] theorem State.modGlb_replay (s : State) (f : Glb → Glb) : (s.modGlb f).replay = s.replay := rfl
@[simp] theorem State.modGlb_verdictLost (s : State) (f : Glb → Glb) : (s.modGlb f).verdictLost = s.verdictLost := rfl
@[simp] theorem State.modGlb_time (s : State) (f : Glb → Glb) : (s.modGlb f).time = s.time := rfl
@[simp] theorem State.modGlb_frac (s : State) (f : Glb → Glb) : (s.modGlb f).frac = s.frac := rfl
@[simp] theorem State.modGlb_out (s : State) (f : Glb → Glb) : (s.modGlb f).out = s.out := rfl
@[simp] theorem State.modGlb_fallow (s : State) (f : Glb → Glb) : (s.modGlb f).fallow = s.fallow := rfl
@[simp] theorem State.modGlb_free (s : State) (f : Glb → Glb) : (s.modGlb f).free = s.free := rfl

/-! ### modHerd -/

@[simp] theorem State.modHerd_pending (s : State) (f : Herd → Herd) : (s.modHerd f).pending = s.pending := rfl
@[simp] theorem State.modHerd_mode (s : State) (f : Herd → Herd) : (s.modHerd f).mode = s.mode := rfl
@[simp] theorem State.modHerd_glb (s : State) (f : Herd → Herd) : (s.modHerd f).glb = s.glb := rfl
@[simp] theorem State.modHerd_parts (s : State) (f : Herd → Herd) : (s.modHerd f).parts = s.parts := rfl
@[simp] theorem State.modHerd_hops (s : State) (f : Herd → Herd) : (s.modHerd f).hops = s.hops := rfl
@[simp] theorem State.modHerd_served (s : State) (f : Herd → Herd) : (s.modHerd f).served = s.served := rfl
@[simp] theorem State.modHerd_pkts (s : State) (f : Herd → Herd) : (s.modHerd f).pkts = s.pkts := rfl
@[simp] theorem State.modHerd_nextId (s : State) (f : Herd → Herd) : (s.modHerd f).nextId = s.nextId := rfl
@[simp] theorem State.modHerd_ctxs (s : State) (f : Herd → Herd) : (s.modHerd f).ctxs = s.ctxs := rfl
@[simp] theorem State.modHerd_engines (s : State) (f : Herd → Herd) : (s.modHerd f).engines = s.engines := rfl
@[simp] theorem State.modHerd_mem (s : State) (f : Herd → Herd) : (s.modHerd f).mem = s.mem := rfl
@[simp] theorem State.modHerd_wins (s : State) (f : Herd → Herd) : (s.modHerd f).wins = s.wins := rfl
@[simp] theorem State.modHerd_host (s : State) (f : Herd → Herd) : (s.modHerd f).host = s.host := rfl
@[simp] theorem State.modHerd_regions (s : State) (f : Herd → Herd) : (s.modHerd f).regions = s.regions := rfl
@[simp] theorem State.modHerd_sec (s : State) (f : Herd → Herd) : (s.modHerd f).sec = s.sec := rfl
@[simp] theorem State.modHerd_err (s : State) (f : Herd → Herd) : (s.modHerd f).err = s.err := rfl
@[simp] theorem State.modHerd_aon (s : State) (f : Herd → Herd) : (s.modHerd f).aon = s.aon := rfl
@[simp] theorem State.modHerd_image (s : State) (f : Herd → Herd) : (s.modHerd f).image = s.image := rfl
@[simp] theorem State.modHerd_pwr (s : State) (f : Herd → Herd) : (s.modHerd f).pwr = s.pwr := rfl
@[simp] theorem State.modHerd_flash (s : State) (f : Herd → Herd) : (s.modHerd f).flash = s.flash := rfl
@[simp] theorem State.modHerd_pins (s : State) (f : Herd → Herd) : (s.modHerd f).pins = s.pins := rfl
@[simp] theorem State.modHerd_tap (s : State) (f : Herd → Herd) : (s.modHerd f).tap = s.tap := rfl
@[simp] theorem State.modHerd_msix (s : State) (f : Herd → Herd) : (s.modHerd f).msix = s.msix := rfl
@[simp] theorem State.modHerd_ports (s : State) (f : Herd → Herd) : (s.modHerd f).ports = s.ports := rfl
@[simp] theorem State.modHerd_herd (s : State) (f : Herd → Herd) : (s.modHerd f).herd = f s.herd := rfl
@[simp] theorem State.modHerd_train (s : State) (f : Herd → Herd) : (s.modHerd f).train = s.train := rfl
@[simp] theorem State.modHerd_replay (s : State) (f : Herd → Herd) : (s.modHerd f).replay = s.replay := rfl
@[simp] theorem State.modHerd_verdictLost (s : State) (f : Herd → Herd) : (s.modHerd f).verdictLost = s.verdictLost := rfl
@[simp] theorem State.modHerd_time (s : State) (f : Herd → Herd) : (s.modHerd f).time = s.time := rfl
@[simp] theorem State.modHerd_frac (s : State) (f : Herd → Herd) : (s.modHerd f).frac = s.frac := rfl
@[simp] theorem State.modHerd_out (s : State) (f : Herd → Herd) : (s.modHerd f).out = s.out := rfl
@[simp] theorem State.modHerd_fallow (s : State) (f : Herd → Herd) : (s.modHerd f).fallow = s.fallow := rfl
@[simp] theorem State.modHerd_free (s : State) (f : Herd → Herd) : (s.modHerd f).free = s.free := rfl

/-! ### failOut -/

@[simp] theorem State.failOut_pending (s : State) : (s.failOut).pending = s.pending := rfl
@[simp] theorem State.failOut_mode (s : State) : (s.failOut).mode = s.mode := rfl
@[simp] theorem State.failOut_glb (s : State) : (s.failOut).glb = s.glb := rfl
@[simp] theorem State.failOut_parts (s : State) : (s.failOut).parts = s.parts := rfl
@[simp] theorem State.failOut_hops (s : State) : (s.failOut).hops = s.hops := rfl
@[simp] theorem State.failOut_served (s : State) : (s.failOut).served = s.served := rfl
@[simp] theorem State.failOut_pkts (s : State) : (s.failOut).pkts = s.pkts := rfl
@[simp] theorem State.failOut_nextId (s : State) : (s.failOut).nextId = s.nextId := rfl
@[simp] theorem State.failOut_ctxs (s : State) : (s.failOut).ctxs = s.ctxs := rfl
@[simp] theorem State.failOut_engines (s : State) : (s.failOut).engines = s.engines := rfl
@[simp] theorem State.failOut_mem (s : State) : (s.failOut).mem = s.mem := rfl
@[simp] theorem State.failOut_wins (s : State) : (s.failOut).wins = s.wins := rfl
@[simp] theorem State.failOut_host (s : State) : (s.failOut).host = s.host := rfl
@[simp] theorem State.failOut_regions (s : State) : (s.failOut).regions = s.regions := rfl
@[simp] theorem State.failOut_sec (s : State) : (s.failOut).sec = s.sec := rfl
@[simp] theorem State.failOut_err (s : State) : (s.failOut).err = s.err := rfl
@[simp] theorem State.failOut_aon (s : State) : (s.failOut).aon = s.aon := rfl
@[simp] theorem State.failOut_image (s : State) : (s.failOut).image = s.image := rfl
@[simp] theorem State.failOut_pwr (s : State) : (s.failOut).pwr = s.pwr := rfl
@[simp] theorem State.failOut_flash (s : State) : (s.failOut).flash = s.flash := rfl
@[simp] theorem State.failOut_pins (s : State) : (s.failOut).pins = { s.pins with failOut := true } := rfl
@[simp] theorem State.failOut_tap (s : State) : (s.failOut).tap = s.tap := rfl
@[simp] theorem State.failOut_msix (s : State) : (s.failOut).msix = s.msix := rfl
@[simp] theorem State.failOut_ports (s : State) : (s.failOut).ports = s.ports := rfl
@[simp] theorem State.failOut_herd (s : State) : (s.failOut).herd = s.herd := rfl
@[simp] theorem State.failOut_train (s : State) : (s.failOut).train = s.train := rfl
@[simp] theorem State.failOut_replay (s : State) : (s.failOut).replay = s.replay := rfl
@[simp] theorem State.failOut_verdictLost (s : State) : (s.failOut).verdictLost = s.verdictLost := rfl
@[simp] theorem State.failOut_time (s : State) : (s.failOut).time = s.time := rfl
@[simp] theorem State.failOut_frac (s : State) : (s.failOut).frac = s.frac := rfl
@[simp] theorem State.failOut_out (s : State) : (s.failOut).out = s.out := rfl
@[simp] theorem State.failOut_fallow (s : State) : (s.failOut).fallow = s.fallow := rfl
@[simp] theorem State.failOut_free (s : State) : (s.failOut).free = s.free := rfl

/-! ### alert -/

@[simp] theorem State.alert_pending (s : State) (i : Nat) : (s.alert i).pending = s.pending := rfl
@[simp] theorem State.alert_mode (s : State) (i : Nat) : (s.alert i).mode = s.mode := rfl
@[simp] theorem State.alert_glb (s : State) (i : Nat) : (s.alert i).glb = s.glb := rfl
@[simp] theorem State.alert_parts (s : State) (i : Nat) : (s.alert i).parts = s.parts := rfl
@[simp] theorem State.alert_hops (s : State) (i : Nat) : (s.alert i).hops = s.hops := rfl
@[simp] theorem State.alert_served (s : State) (i : Nat) : (s.alert i).served = s.served := rfl
@[simp] theorem State.alert_pkts (s : State) (i : Nat) : (s.alert i).pkts = s.pkts := rfl
@[simp] theorem State.alert_nextId (s : State) (i : Nat) : (s.alert i).nextId = s.nextId := rfl
@[simp] theorem State.alert_ctxs (s : State) (i : Nat) : (s.alert i).ctxs = s.ctxs := rfl
@[simp] theorem State.alert_engines (s : State) (i : Nat) : (s.alert i).engines = s.engines := rfl
@[simp] theorem State.alert_mem (s : State) (i : Nat) : (s.alert i).mem = s.mem := rfl
@[simp] theorem State.alert_wins (s : State) (i : Nat) : (s.alert i).wins = s.wins := rfl
@[simp] theorem State.alert_host (s : State) (i : Nat) : (s.alert i).host = s.host := rfl
@[simp] theorem State.alert_regions (s : State) (i : Nat) : (s.alert i).regions = s.regions := rfl
@[simp] theorem State.alert_sec (s : State) (i : Nat) : (s.alert i).sec = s.sec := rfl
@[simp] theorem State.alert_err (s : State) (i : Nat) : (s.alert i).err = s.err := rfl
@[simp] theorem State.alert_aon (s : State) (i : Nat) : (s.alert i).aon = { s.aon with alert := s.aon.alert ||| BitVec.ofNat 8 (2 ^ i) } := rfl
@[simp] theorem State.alert_image (s : State) (i : Nat) : (s.alert i).image = s.image := rfl
@[simp] theorem State.alert_pwr (s : State) (i : Nat) : (s.alert i).pwr = s.pwr := rfl
@[simp] theorem State.alert_flash (s : State) (i : Nat) : (s.alert i).flash = s.flash := rfl
@[simp] theorem State.alert_pins (s : State) (i : Nat) : (s.alert i).pins = s.pins := rfl
@[simp] theorem State.alert_tap (s : State) (i : Nat) : (s.alert i).tap = s.tap := rfl
@[simp] theorem State.alert_msix (s : State) (i : Nat) : (s.alert i).msix = s.msix := rfl
@[simp] theorem State.alert_ports (s : State) (i : Nat) : (s.alert i).ports = s.ports := rfl
@[simp] theorem State.alert_herd (s : State) (i : Nat) : (s.alert i).herd = s.herd := rfl
@[simp] theorem State.alert_train (s : State) (i : Nat) : (s.alert i).train = s.train := rfl
@[simp] theorem State.alert_replay (s : State) (i : Nat) : (s.alert i).replay = s.replay := rfl
@[simp] theorem State.alert_verdictLost (s : State) (i : Nat) : (s.alert i).verdictLost = s.verdictLost := rfl
@[simp] theorem State.alert_time (s : State) (i : Nat) : (s.alert i).time = s.time := rfl
@[simp] theorem State.alert_frac (s : State) (i : Nat) : (s.alert i).frac = s.frac := rfl
@[simp] theorem State.alert_out (s : State) (i : Nat) : (s.alert i).out = s.out := rfl
@[simp] theorem State.alert_fallow (s : State) (i : Nat) : (s.alert i).fallow = s.fallow := rfl
@[simp] theorem State.alert_free (s : State) (i : Nat) : (s.alert i).free = s.free := rfl

/-! ### endRecording -/

@[simp] theorem State.endRecording_pending (s : State) : (s.endRecording).pending = s.pending := rfl
@[simp] theorem State.endRecording_mode (s : State) : (s.endRecording).mode = s.mode := rfl
@[simp] theorem State.endRecording_glb (s : State) : (s.endRecording).glb = s.glb := rfl
@[simp] theorem State.endRecording_parts (s : State) : (s.endRecording).parts = s.parts := rfl
@[simp] theorem State.endRecording_hops (s : State) : (s.endRecording).hops = s.hops := rfl
@[simp] theorem State.endRecording_served (s : State) : (s.endRecording).served = s.served := rfl
@[simp] theorem State.endRecording_pkts (s : State) : (s.endRecording).pkts = s.pkts := rfl
@[simp] theorem State.endRecording_nextId (s : State) : (s.endRecording).nextId = s.nextId := rfl
@[simp] theorem State.endRecording_ctxs (s : State) : (s.endRecording).ctxs = s.ctxs := rfl
@[simp] theorem State.endRecording_engines (s : State) : (s.endRecording).engines = s.engines := rfl
@[simp] theorem State.endRecording_mem (s : State) : (s.endRecording).mem = s.mem := rfl
@[simp] theorem State.endRecording_wins (s : State) : (s.endRecording).wins = s.wins := rfl
@[simp] theorem State.endRecording_host (s : State) : (s.endRecording).host = s.host := rfl
@[simp] theorem State.endRecording_regions (s : State) : (s.endRecording).regions = s.regions := rfl
@[simp] theorem State.endRecording_sec (s : State) : (s.endRecording).sec = s.sec := rfl
@[simp] theorem State.endRecording_err (s : State) : (s.endRecording).err = s.err := rfl
@[simp] theorem State.endRecording_aon (s : State) : (s.endRecording).aon = s.aon := rfl
@[simp] theorem State.endRecording_image (s : State) : (s.endRecording).image = s.image := rfl
@[simp] theorem State.endRecording_pwr (s : State) : (s.endRecording).pwr = s.pwr := rfl
@[simp] theorem State.endRecording_flash (s : State) : (s.endRecording).flash = s.flash := rfl
@[simp] theorem State.endRecording_pins (s : State) : (s.endRecording).pins = s.pins := rfl
@[simp] theorem State.endRecording_tap (s : State) : (s.endRecording).tap = s.tap := rfl
@[simp] theorem State.endRecording_msix (s : State) : (s.endRecording).msix = s.msix := rfl
@[simp] theorem State.endRecording_ports (s : State) : (s.endRecording).ports = s.ports := rfl
@[simp] theorem State.endRecording_herd (s : State) : (s.endRecording).herd = s.herd := rfl
@[simp] theorem State.endRecording_train (s : State) : (s.endRecording).train = s.train := rfl
@[simp] theorem State.endRecording_replay (s : State) : (s.endRecording).replay = { s.replay with armed := none } := rfl
@[simp] theorem State.endRecording_verdictLost (s : State) : (s.endRecording).verdictLost = s.verdictLost := rfl
@[simp] theorem State.endRecording_time (s : State) : (s.endRecording).time = s.time := rfl
@[simp] theorem State.endRecording_frac (s : State) : (s.endRecording).frac = s.frac := rfl
@[simp] theorem State.endRecording_out (s : State) : (s.endRecording).out = s.out := rfl
@[simp] theorem State.endRecording_fallow (s : State) : (s.endRecording).fallow = s.fallow := rfl
@[simp] theorem State.endRecording_free (s : State) : (s.endRecording).free = s.free := rfl

/-! ### haltAll -/

@[simp] theorem State.haltAll_pending (s : State) : (s.haltAll).pending = s.pending := rfl
@[simp] theorem State.haltAll_mode (s : State) : (s.haltAll).mode = s.mode := rfl
@[simp] theorem State.haltAll_glb (s : State) : (s.haltAll).glb = s.glb := rfl
@[simp] theorem State.haltAll_parts (s : State) : (s.haltAll).parts = s.parts := rfl
@[simp] theorem State.haltAll_hops (s : State) : (s.haltAll).hops = s.hops.map fun k => { k with halted := true } := rfl
@[simp] theorem State.haltAll_served (s : State) : (s.haltAll).served = s.served := rfl
@[simp] theorem State.haltAll_pkts (s : State) : (s.haltAll).pkts = s.pkts := rfl
@[simp] theorem State.haltAll_nextId (s : State) : (s.haltAll).nextId = s.nextId := rfl
@[simp] theorem State.haltAll_ctxs (s : State) : (s.haltAll).ctxs = s.ctxs := rfl
@[simp] theorem State.haltAll_engines (s : State) : (s.haltAll).engines = s.engines := rfl
@[simp] theorem State.haltAll_mem (s : State) : (s.haltAll).mem = s.mem := rfl
@[simp] theorem State.haltAll_wins (s : State) : (s.haltAll).wins = s.wins := rfl
@[simp] theorem State.haltAll_host (s : State) : (s.haltAll).host = s.host := rfl
@[simp] theorem State.haltAll_regions (s : State) : (s.haltAll).regions = s.regions := rfl
@[simp] theorem State.haltAll_sec (s : State) : (s.haltAll).sec = s.sec := rfl
@[simp] theorem State.haltAll_err (s : State) : (s.haltAll).err = s.err := rfl
@[simp] theorem State.haltAll_aon (s : State) : (s.haltAll).aon = s.aon := rfl
@[simp] theorem State.haltAll_image (s : State) : (s.haltAll).image = s.image := rfl
@[simp] theorem State.haltAll_pwr (s : State) : (s.haltAll).pwr = s.pwr := rfl
@[simp] theorem State.haltAll_flash (s : State) : (s.haltAll).flash = s.flash := rfl
@[simp] theorem State.haltAll_pins (s : State) : (s.haltAll).pins = s.pins := rfl
@[simp] theorem State.haltAll_tap (s : State) : (s.haltAll).tap = s.tap := rfl
@[simp] theorem State.haltAll_msix (s : State) : (s.haltAll).msix = s.msix := rfl
@[simp] theorem State.haltAll_ports (s : State) : (s.haltAll).ports = s.ports := rfl
@[simp] theorem State.haltAll_herd (s : State) : (s.haltAll).herd = s.herd := rfl
@[simp] theorem State.haltAll_train (s : State) : (s.haltAll).train = s.train := rfl
@[simp] theorem State.haltAll_replay (s : State) : (s.haltAll).replay = s.replay := rfl
@[simp] theorem State.haltAll_verdictLost (s : State) : (s.haltAll).verdictLost = s.verdictLost := rfl
@[simp] theorem State.haltAll_time (s : State) : (s.haltAll).time = s.time := rfl
@[simp] theorem State.haltAll_frac (s : State) : (s.haltAll).frac = s.frac := rfl
@[simp] theorem State.haltAll_out (s : State) : (s.haltAll).out = s.out := rfl
@[simp] theorem State.haltAll_fallow (s : State) : (s.haltAll).fallow = s.fallow := rfl
@[simp] theorem State.haltAll_free (s : State) : (s.haltAll).free = s.free := rfl

/-! ### setForming -/

@[simp] theorem State.setForming_pending (s : State) (f : Option Forming) : (s.setForming f).pending = s.pending := rfl
@[simp] theorem State.setForming_mode (s : State) (f : Option Forming) : (s.setForming f).mode = s.mode := rfl
@[simp] theorem State.setForming_glb (s : State) (f : Option Forming) : (s.setForming f).glb = s.glb := rfl
@[simp] theorem State.setForming_parts (s : State) (f : Option Forming) : (s.setForming f).parts = s.parts := rfl
@[simp] theorem State.setForming_hops (s : State) (f : Option Forming) : (s.setForming f).hops = s.hops := rfl
@[simp] theorem State.setForming_served (s : State) (f : Option Forming) : (s.setForming f).served = s.served := rfl
@[simp] theorem State.setForming_pkts (s : State) (f : Option Forming) : (s.setForming f).pkts = s.pkts := rfl
@[simp] theorem State.setForming_nextId (s : State) (f : Option Forming) : (s.setForming f).nextId = s.nextId := rfl
@[simp] theorem State.setForming_ctxs (s : State) (f : Option Forming) : (s.setForming f).ctxs = s.ctxs := rfl
@[simp] theorem State.setForming_engines (s : State) (f : Option Forming) : (s.setForming f).engines = s.engines := rfl
@[simp] theorem State.setForming_mem (s : State) (f : Option Forming) : (s.setForming f).mem = s.mem := rfl
@[simp] theorem State.setForming_wins (s : State) (f : Option Forming) : (s.setForming f).wins = s.wins := rfl
@[simp] theorem State.setForming_host (s : State) (f : Option Forming) : (s.setForming f).host = s.host := rfl
@[simp] theorem State.setForming_regions (s : State) (f : Option Forming) : (s.setForming f).regions = s.regions := rfl
@[simp] theorem State.setForming_sec (s : State) (f : Option Forming) : (s.setForming f).sec = s.sec := rfl
@[simp] theorem State.setForming_err (s : State) (f : Option Forming) : (s.setForming f).err = s.err := rfl
@[simp] theorem State.setForming_aon (s : State) (f : Option Forming) : (s.setForming f).aon = s.aon := rfl
@[simp] theorem State.setForming_image (s : State) (f : Option Forming) : (s.setForming f).image = s.image := rfl
@[simp] theorem State.setForming_pwr (s : State) (f : Option Forming) : (s.setForming f).pwr = s.pwr := rfl
@[simp] theorem State.setForming_flash (s : State) (f : Option Forming) : (s.setForming f).flash = s.flash := rfl
@[simp] theorem State.setForming_pins (s : State) (f : Option Forming) : (s.setForming f).pins = s.pins := rfl
@[simp] theorem State.setForming_tap (s : State) (f : Option Forming) : (s.setForming f).tap = s.tap := rfl
@[simp] theorem State.setForming_msix (s : State) (f : Option Forming) : (s.setForming f).msix = s.msix := rfl
@[simp] theorem State.setForming_ports (s : State) (f : Option Forming) : (s.setForming f).ports = s.ports := rfl
@[simp] theorem State.setForming_herd (s : State) (f : Option Forming) : (s.setForming f).herd = { s.herd with forming := f } := rfl
@[simp] theorem State.setForming_train (s : State) (f : Option Forming) : (s.setForming f).train = s.train := rfl
@[simp] theorem State.setForming_replay (s : State) (f : Option Forming) : (s.setForming f).replay = s.replay := rfl
@[simp] theorem State.setForming_verdictLost (s : State) (f : Option Forming) : (s.setForming f).verdictLost = s.verdictLost := rfl
@[simp] theorem State.setForming_time (s : State) (f : Option Forming) : (s.setForming f).time = s.time := rfl
@[simp] theorem State.setForming_frac (s : State) (f : Option Forming) : (s.setForming f).frac = s.frac := rfl
@[simp] theorem State.setForming_out (s : State) (f : Option Forming) : (s.setForming f).out = s.out := rfl
@[simp] theorem State.setForming_fallow (s : State) (f : Option Forming) : (s.setForming f).fallow = s.fallow := rfl
@[simp] theorem State.setForming_free (s : State) (f : Option Forming) : (s.setForming f).free = s.free := rfl

/-! ### setLead -/

@[simp] theorem State.setLead_pending (s : State) (l : Option Lead) : (s.setLead l).pending = s.pending := rfl
@[simp] theorem State.setLead_mode (s : State) (l : Option Lead) : (s.setLead l).mode = s.mode := rfl
@[simp] theorem State.setLead_glb (s : State) (l : Option Lead) : (s.setLead l).glb = s.glb := rfl
@[simp] theorem State.setLead_parts (s : State) (l : Option Lead) : (s.setLead l).parts = s.parts := rfl
@[simp] theorem State.setLead_hops (s : State) (l : Option Lead) : (s.setLead l).hops = s.hops := rfl
@[simp] theorem State.setLead_served (s : State) (l : Option Lead) : (s.setLead l).served = s.served := rfl
@[simp] theorem State.setLead_pkts (s : State) (l : Option Lead) : (s.setLead l).pkts = s.pkts := rfl
@[simp] theorem State.setLead_nextId (s : State) (l : Option Lead) : (s.setLead l).nextId = s.nextId := rfl
@[simp] theorem State.setLead_ctxs (s : State) (l : Option Lead) : (s.setLead l).ctxs = s.ctxs := rfl
@[simp] theorem State.setLead_engines (s : State) (l : Option Lead) : (s.setLead l).engines = s.engines := rfl
@[simp] theorem State.setLead_mem (s : State) (l : Option Lead) : (s.setLead l).mem = s.mem := rfl
@[simp] theorem State.setLead_wins (s : State) (l : Option Lead) : (s.setLead l).wins = s.wins := rfl
@[simp] theorem State.setLead_host (s : State) (l : Option Lead) : (s.setLead l).host = s.host := rfl
@[simp] theorem State.setLead_regions (s : State) (l : Option Lead) : (s.setLead l).regions = s.regions := rfl
@[simp] theorem State.setLead_sec (s : State) (l : Option Lead) : (s.setLead l).sec = s.sec := rfl
@[simp] theorem State.setLead_err (s : State) (l : Option Lead) : (s.setLead l).err = s.err := rfl
@[simp] theorem State.setLead_aon (s : State) (l : Option Lead) : (s.setLead l).aon = s.aon := rfl
@[simp] theorem State.setLead_image (s : State) (l : Option Lead) : (s.setLead l).image = s.image := rfl
@[simp] theorem State.setLead_pwr (s : State) (l : Option Lead) : (s.setLead l).pwr = s.pwr := rfl
@[simp] theorem State.setLead_flash (s : State) (l : Option Lead) : (s.setLead l).flash = s.flash := rfl
@[simp] theorem State.setLead_pins (s : State) (l : Option Lead) : (s.setLead l).pins = s.pins := rfl
@[simp] theorem State.setLead_tap (s : State) (l : Option Lead) : (s.setLead l).tap = s.tap := rfl
@[simp] theorem State.setLead_msix (s : State) (l : Option Lead) : (s.setLead l).msix = s.msix := rfl
@[simp] theorem State.setLead_ports (s : State) (l : Option Lead) : (s.setLead l).ports = s.ports := rfl
@[simp] theorem State.setLead_herd (s : State) (l : Option Lead) : (s.setLead l).herd = { s.herd with lead := l } := rfl
@[simp] theorem State.setLead_train (s : State) (l : Option Lead) : (s.setLead l).train = s.train := rfl
@[simp] theorem State.setLead_replay (s : State) (l : Option Lead) : (s.setLead l).replay = s.replay := rfl
@[simp] theorem State.setLead_verdictLost (s : State) (l : Option Lead) : (s.setLead l).verdictLost = s.verdictLost := rfl
@[simp] theorem State.setLead_time (s : State) (l : Option Lead) : (s.setLead l).time = s.time := rfl
@[simp] theorem State.setLead_frac (s : State) (l : Option Lead) : (s.setLead l).frac = s.frac := rfl
@[simp] theorem State.setLead_out (s : State) (l : Option Lead) : (s.setLead l).out = s.out := rfl
@[simp] theorem State.setLead_fallow (s : State) (l : Option Lead) : (s.setLead l).fallow = s.fallow := rfl
@[simp] theorem State.setLead_free (s : State) (l : Option Lead) : (s.setLead l).free = s.free := rfl

/-! ### setCommit -/

@[simp] theorem State.setCommit_pending (s : State) (c : Option CommitSt) : (s.setCommit c).pending = s.pending := rfl
@[simp] theorem State.setCommit_mode (s : State) (c : Option CommitSt) : (s.setCommit c).mode = s.mode := rfl
@[simp] theorem State.setCommit_glb (s : State) (c : Option CommitSt) : (s.setCommit c).glb = s.glb := rfl
@[simp] theorem State.setCommit_parts (s : State) (c : Option CommitSt) : (s.setCommit c).parts = s.parts := rfl
@[simp] theorem State.setCommit_hops (s : State) (c : Option CommitSt) : (s.setCommit c).hops = s.hops := rfl
@[simp] theorem State.setCommit_served (s : State) (c : Option CommitSt) : (s.setCommit c).served = s.served := rfl
@[simp] theorem State.setCommit_pkts (s : State) (c : Option CommitSt) : (s.setCommit c).pkts = s.pkts := rfl
@[simp] theorem State.setCommit_nextId (s : State) (c : Option CommitSt) : (s.setCommit c).nextId = s.nextId := rfl
@[simp] theorem State.setCommit_ctxs (s : State) (c : Option CommitSt) : (s.setCommit c).ctxs = s.ctxs := rfl
@[simp] theorem State.setCommit_engines (s : State) (c : Option CommitSt) : (s.setCommit c).engines = s.engines := rfl
@[simp] theorem State.setCommit_mem (s : State) (c : Option CommitSt) : (s.setCommit c).mem = s.mem := rfl
@[simp] theorem State.setCommit_wins (s : State) (c : Option CommitSt) : (s.setCommit c).wins = s.wins := rfl
@[simp] theorem State.setCommit_host (s : State) (c : Option CommitSt) : (s.setCommit c).host = s.host := rfl
@[simp] theorem State.setCommit_regions (s : State) (c : Option CommitSt) : (s.setCommit c).regions = s.regions := rfl
@[simp] theorem State.setCommit_sec (s : State) (c : Option CommitSt) : (s.setCommit c).sec = s.sec := rfl
@[simp] theorem State.setCommit_err (s : State) (c : Option CommitSt) : (s.setCommit c).err = s.err := rfl
@[simp] theorem State.setCommit_aon (s : State) (c : Option CommitSt) : (s.setCommit c).aon = s.aon := rfl
@[simp] theorem State.setCommit_image (s : State) (c : Option CommitSt) : (s.setCommit c).image = s.image := rfl
@[simp] theorem State.setCommit_pwr (s : State) (c : Option CommitSt) : (s.setCommit c).pwr = s.pwr := rfl
@[simp] theorem State.setCommit_flash (s : State) (c : Option CommitSt) : (s.setCommit c).flash = s.flash := rfl
@[simp] theorem State.setCommit_pins (s : State) (c : Option CommitSt) : (s.setCommit c).pins = s.pins := rfl
@[simp] theorem State.setCommit_tap (s : State) (c : Option CommitSt) : (s.setCommit c).tap = s.tap := rfl
@[simp] theorem State.setCommit_msix (s : State) (c : Option CommitSt) : (s.setCommit c).msix = s.msix := rfl
@[simp] theorem State.setCommit_ports (s : State) (c : Option CommitSt) : (s.setCommit c).ports = s.ports := rfl
@[simp] theorem State.setCommit_herd (s : State) (c : Option CommitSt) : (s.setCommit c).herd = s.herd := rfl
@[simp] theorem State.setCommit_train (s : State) (c : Option CommitSt) : (s.setCommit c).train = { s.train with commit := c } := rfl
@[simp] theorem State.setCommit_replay (s : State) (c : Option CommitSt) : (s.setCommit c).replay = s.replay := rfl
@[simp] theorem State.setCommit_verdictLost (s : State) (c : Option CommitSt) : (s.setCommit c).verdictLost = s.verdictLost := rfl
@[simp] theorem State.setCommit_time (s : State) (c : Option CommitSt) : (s.setCommit c).time = s.time := rfl
@[simp] theorem State.setCommit_frac (s : State) (c : Option CommitSt) : (s.setCommit c).frac = s.frac := rfl
@[simp] theorem State.setCommit_out (s : State) (c : Option CommitSt) : (s.setCommit c).out = s.out := rfl
@[simp] theorem State.setCommit_fallow (s : State) (c : Option CommitSt) : (s.setCommit c).fallow = s.fallow := rfl
@[simp] theorem State.setCommit_free (s : State) (c : Option CommitSt) : (s.setCommit c).free = s.free := rfl

/-! ### setRestore -/

@[simp] theorem State.setRestore_pending (s : State) (r : Option RestoreRun) : (s.setRestore r).pending = s.pending := rfl
@[simp] theorem State.setRestore_mode (s : State) (r : Option RestoreRun) : (s.setRestore r).mode = s.mode := rfl
@[simp] theorem State.setRestore_glb (s : State) (r : Option RestoreRun) : (s.setRestore r).glb = s.glb := rfl
@[simp] theorem State.setRestore_parts (s : State) (r : Option RestoreRun) : (s.setRestore r).parts = s.parts := rfl
@[simp] theorem State.setRestore_hops (s : State) (r : Option RestoreRun) : (s.setRestore r).hops = s.hops := rfl
@[simp] theorem State.setRestore_served (s : State) (r : Option RestoreRun) : (s.setRestore r).served = s.served := rfl
@[simp] theorem State.setRestore_pkts (s : State) (r : Option RestoreRun) : (s.setRestore r).pkts = s.pkts := rfl
@[simp] theorem State.setRestore_nextId (s : State) (r : Option RestoreRun) : (s.setRestore r).nextId = s.nextId := rfl
@[simp] theorem State.setRestore_ctxs (s : State) (r : Option RestoreRun) : (s.setRestore r).ctxs = s.ctxs := rfl
@[simp] theorem State.setRestore_engines (s : State) (r : Option RestoreRun) : (s.setRestore r).engines = s.engines := rfl
@[simp] theorem State.setRestore_mem (s : State) (r : Option RestoreRun) : (s.setRestore r).mem = s.mem := rfl
@[simp] theorem State.setRestore_wins (s : State) (r : Option RestoreRun) : (s.setRestore r).wins = s.wins := rfl
@[simp] theorem State.setRestore_host (s : State) (r : Option RestoreRun) : (s.setRestore r).host = s.host := rfl
@[simp] theorem State.setRestore_regions (s : State) (r : Option RestoreRun) : (s.setRestore r).regions = s.regions := rfl
@[simp] theorem State.setRestore_sec (s : State) (r : Option RestoreRun) : (s.setRestore r).sec = s.sec := rfl
@[simp] theorem State.setRestore_err (s : State) (r : Option RestoreRun) : (s.setRestore r).err = s.err := rfl
@[simp] theorem State.setRestore_aon (s : State) (r : Option RestoreRun) : (s.setRestore r).aon = s.aon := rfl
@[simp] theorem State.setRestore_image (s : State) (r : Option RestoreRun) : (s.setRestore r).image = s.image := rfl
@[simp] theorem State.setRestore_pwr (s : State) (r : Option RestoreRun) : (s.setRestore r).pwr = s.pwr := rfl
@[simp] theorem State.setRestore_flash (s : State) (r : Option RestoreRun) : (s.setRestore r).flash = s.flash := rfl
@[simp] theorem State.setRestore_pins (s : State) (r : Option RestoreRun) : (s.setRestore r).pins = s.pins := rfl
@[simp] theorem State.setRestore_tap (s : State) (r : Option RestoreRun) : (s.setRestore r).tap = s.tap := rfl
@[simp] theorem State.setRestore_msix (s : State) (r : Option RestoreRun) : (s.setRestore r).msix = s.msix := rfl
@[simp] theorem State.setRestore_ports (s : State) (r : Option RestoreRun) : (s.setRestore r).ports = s.ports := rfl
@[simp] theorem State.setRestore_herd (s : State) (r : Option RestoreRun) : (s.setRestore r).herd = s.herd := rfl
@[simp] theorem State.setRestore_train (s : State) (r : Option RestoreRun) : (s.setRestore r).train = { s.train with restore := r } := rfl
@[simp] theorem State.setRestore_replay (s : State) (r : Option RestoreRun) : (s.setRestore r).replay = s.replay := rfl
@[simp] theorem State.setRestore_verdictLost (s : State) (r : Option RestoreRun) : (s.setRestore r).verdictLost = s.verdictLost := rfl
@[simp] theorem State.setRestore_time (s : State) (r : Option RestoreRun) : (s.setRestore r).time = s.time := rfl
@[simp] theorem State.setRestore_frac (s : State) (r : Option RestoreRun) : (s.setRestore r).frac = s.frac := rfl
@[simp] theorem State.setRestore_out (s : State) (r : Option RestoreRun) : (s.setRestore r).out = s.out := rfl
@[simp] theorem State.setRestore_fallow (s : State) (r : Option RestoreRun) : (s.setRestore r).fallow = s.fallow := rfl
@[simp] theorem State.setRestore_free (s : State) (r : Option RestoreRun) : (s.setRestore r).free = s.free := rfl

/-! ### noteConflicts -/

@[simp] theorem State.noteConflicts_pending (s : State) : (s.noteConflicts).pending = s.pending := rfl
@[simp] theorem State.noteConflicts_mode (s : State) : (s.noteConflicts).mode = s.mode := rfl
@[simp] theorem State.noteConflicts_parts (s : State) : (s.noteConflicts).parts = s.parts := rfl
@[simp] theorem State.noteConflicts_hops (s : State) : (s.noteConflicts).hops = s.hops := rfl
@[simp] theorem State.noteConflicts_served (s : State) : (s.noteConflicts).served = s.served := rfl
@[simp] theorem State.noteConflicts_pkts (s : State) : (s.noteConflicts).pkts = s.pkts := rfl
@[simp] theorem State.noteConflicts_nextId (s : State) : (s.noteConflicts).nextId = s.nextId := rfl
@[simp] theorem State.noteConflicts_ctxs (s : State) : (s.noteConflicts).ctxs = s.ctxs := rfl
@[simp] theorem State.noteConflicts_engines (s : State) : (s.noteConflicts).engines = s.engines := rfl
@[simp] theorem State.noteConflicts_mem (s : State) : (s.noteConflicts).mem = s.mem := rfl
@[simp] theorem State.noteConflicts_wins (s : State) : (s.noteConflicts).wins = s.wins := rfl
@[simp] theorem State.noteConflicts_host (s : State) : (s.noteConflicts).host = s.host := rfl
@[simp] theorem State.noteConflicts_regions (s : State) : (s.noteConflicts).regions = s.regions := rfl
@[simp] theorem State.noteConflicts_sec (s : State) : (s.noteConflicts).sec = s.sec := rfl
@[simp] theorem State.noteConflicts_err (s : State) : (s.noteConflicts).err = s.err := rfl
@[simp] theorem State.noteConflicts_aon (s : State) : (s.noteConflicts).aon = s.aon := rfl
@[simp] theorem State.noteConflicts_image (s : State) : (s.noteConflicts).image = s.image := rfl
@[simp] theorem State.noteConflicts_pwr (s : State) : (s.noteConflicts).pwr = s.pwr := rfl
@[simp] theorem State.noteConflicts_flash (s : State) : (s.noteConflicts).flash = s.flash := rfl
@[simp] theorem State.noteConflicts_pins (s : State) : (s.noteConflicts).pins = s.pins := rfl
@[simp] theorem State.noteConflicts_tap (s : State) : (s.noteConflicts).tap = s.tap := rfl
@[simp] theorem State.noteConflicts_msix (s : State) : (s.noteConflicts).msix = s.msix := rfl
@[simp] theorem State.noteConflicts_ports (s : State) : (s.noteConflicts).ports = s.ports := rfl
@[simp] theorem State.noteConflicts_herd (s : State) : (s.noteConflicts).herd = s.herd := rfl
@[simp] theorem State.noteConflicts_train (s : State) : (s.noteConflicts).train = s.train := rfl
@[simp] theorem State.noteConflicts_replay (s : State) : (s.noteConflicts).replay = s.replay := rfl
@[simp] theorem State.noteConflicts_verdictLost (s : State) : (s.noteConflicts).verdictLost = s.verdictLost := rfl
@[simp] theorem State.noteConflicts_time (s : State) : (s.noteConflicts).time = s.time := rfl
@[simp] theorem State.noteConflicts_frac (s : State) : (s.noteConflicts).frac = s.frac := rfl
@[simp] theorem State.noteConflicts_out (s : State) : (s.noteConflicts).out = s.out := rfl
@[simp] theorem State.noteConflicts_fallow (s : State) : (s.noteConflicts).fallow = s.fallow := rfl
@[simp] theorem State.noteConflicts_free (s : State) : (s.noteConflicts).free = s.free := rfl

/-! ### noteIdle -/

@[simp] theorem State.noteIdle_pending (s : State) : (s.noteIdle).pending = s.pending := rfl
@[simp] theorem State.noteIdle_mode (s : State) : (s.noteIdle).mode = s.mode := rfl
@[simp] theorem State.noteIdle_glb (s : State) : (s.noteIdle).glb = s.glb := rfl
@[simp] theorem State.noteIdle_parts (s : State) : (s.noteIdle).parts = s.parts := rfl
@[simp] theorem State.noteIdle_hops (s : State) : (s.noteIdle).hops = s.hops := rfl
@[simp] theorem State.noteIdle_served (s : State) : (s.noteIdle).served = s.served := rfl
@[simp] theorem State.noteIdle_pkts (s : State) : (s.noteIdle).pkts = s.pkts := rfl
@[simp] theorem State.noteIdle_nextId (s : State) : (s.noteIdle).nextId = s.nextId := rfl
@[simp] theorem State.noteIdle_ctxs (s : State) : (s.noteIdle).ctxs = s.ctxs := rfl
@[simp] theorem State.noteIdle_engines (s : State) : (s.noteIdle).engines = s.engines := rfl
@[simp] theorem State.noteIdle_mem (s : State) : (s.noteIdle).mem = s.mem := rfl
@[simp] theorem State.noteIdle_wins (s : State) : (s.noteIdle).wins = s.wins := rfl
@[simp] theorem State.noteIdle_host (s : State) : (s.noteIdle).host = s.host := rfl
@[simp] theorem State.noteIdle_regions (s : State) : (s.noteIdle).regions = s.regions := rfl
@[simp] theorem State.noteIdle_sec (s : State) : (s.noteIdle).sec = s.sec := rfl
@[simp] theorem State.noteIdle_err (s : State) : (s.noteIdle).err = s.err := rfl
@[simp] theorem State.noteIdle_aon (s : State) : (s.noteIdle).aon = s.aon := rfl
@[simp] theorem State.noteIdle_image (s : State) : (s.noteIdle).image = s.image := rfl
@[simp] theorem State.noteIdle_flash (s : State) : (s.noteIdle).flash = s.flash := rfl
@[simp] theorem State.noteIdle_pins (s : State) : (s.noteIdle).pins = s.pins := rfl
@[simp] theorem State.noteIdle_tap (s : State) : (s.noteIdle).tap = s.tap := rfl
@[simp] theorem State.noteIdle_msix (s : State) : (s.noteIdle).msix = s.msix := rfl
@[simp] theorem State.noteIdle_ports (s : State) : (s.noteIdle).ports = s.ports := rfl
@[simp] theorem State.noteIdle_herd (s : State) : (s.noteIdle).herd = s.herd := rfl
@[simp] theorem State.noteIdle_train (s : State) : (s.noteIdle).train = s.train := rfl
@[simp] theorem State.noteIdle_replay (s : State) : (s.noteIdle).replay = s.replay := rfl
@[simp] theorem State.noteIdle_verdictLost (s : State) : (s.noteIdle).verdictLost = s.verdictLost := rfl
@[simp] theorem State.noteIdle_time (s : State) : (s.noteIdle).time = s.time := rfl
@[simp] theorem State.noteIdle_frac (s : State) : (s.noteIdle).frac = s.frac := rfl
@[simp] theorem State.noteIdle_out (s : State) : (s.noteIdle).out = s.out := rfl
@[simp] theorem State.noteIdle_fallow (s : State) : (s.noteIdle).fallow = s.fallow := rfl
@[simp] theorem State.noteIdle_free (s : State) : (s.noteIdle).free = s.free := rfl

/-! ### noteAll -/

@[simp] theorem State.noteAll_pending (s : State) : (s.noteAll).pending = s.pending := rfl
@[simp] theorem State.noteAll_mode (s : State) : (s.noteAll).mode = s.mode := rfl
@[simp] theorem State.noteAll_parts (s : State) : (s.noteAll).parts = s.parts := rfl
@[simp] theorem State.noteAll_hops (s : State) : (s.noteAll).hops = s.hops := rfl
@[simp] theorem State.noteAll_served (s : State) : (s.noteAll).served = s.served := rfl
@[simp] theorem State.noteAll_pkts (s : State) : (s.noteAll).pkts = s.pkts := rfl
@[simp] theorem State.noteAll_nextId (s : State) : (s.noteAll).nextId = s.nextId := rfl
@[simp] theorem State.noteAll_ctxs (s : State) : (s.noteAll).ctxs = s.ctxs := rfl
@[simp] theorem State.noteAll_engines (s : State) : (s.noteAll).engines = s.engines := rfl
@[simp] theorem State.noteAll_mem (s : State) : (s.noteAll).mem = s.mem := rfl
@[simp] theorem State.noteAll_wins (s : State) : (s.noteAll).wins = s.wins := rfl
@[simp] theorem State.noteAll_host (s : State) : (s.noteAll).host = s.host := rfl
@[simp] theorem State.noteAll_regions (s : State) : (s.noteAll).regions = s.regions := rfl
@[simp] theorem State.noteAll_sec (s : State) : (s.noteAll).sec = s.sec := rfl
@[simp] theorem State.noteAll_err (s : State) : (s.noteAll).err = s.err := rfl
@[simp] theorem State.noteAll_aon (s : State) : (s.noteAll).aon = s.aon := rfl
@[simp] theorem State.noteAll_image (s : State) : (s.noteAll).image = s.image := rfl
@[simp] theorem State.noteAll_flash (s : State) : (s.noteAll).flash = s.flash := rfl
@[simp] theorem State.noteAll_pins (s : State) : (s.noteAll).pins = s.pins := rfl
@[simp] theorem State.noteAll_tap (s : State) : (s.noteAll).tap = s.tap := rfl
@[simp] theorem State.noteAll_msix (s : State) : (s.noteAll).msix = s.msix := rfl
@[simp] theorem State.noteAll_ports (s : State) : (s.noteAll).ports = s.ports := rfl
@[simp] theorem State.noteAll_herd (s : State) : (s.noteAll).herd = s.herd := rfl
@[simp] theorem State.noteAll_train (s : State) : (s.noteAll).train = s.train := rfl
@[simp] theorem State.noteAll_replay (s : State) : (s.noteAll).replay = s.replay := rfl
@[simp] theorem State.noteAll_verdictLost (s : State) : (s.noteAll).verdictLost = s.verdictLost := rfl
@[simp] theorem State.noteAll_time (s : State) : (s.noteAll).time = s.time := rfl
@[simp] theorem State.noteAll_frac (s : State) : (s.noteAll).frac = s.frac := rfl
@[simp] theorem State.noteAll_out (s : State) : (s.noteAll).out = s.out := rfl
@[simp] theorem State.noteAll_fallow (s : State) : (s.noteAll).fallow = s.fallow := rfl
@[simp] theorem State.noteAll_free (s : State) : (s.noteAll).free = s.free := rfl

/-! ### countOnly -/

@[simp] theorem State.countOnly_pending (s : State) (c : Nat) : (s.countOnly c).pending = s.pending := rfl
@[simp] theorem State.countOnly_mode (s : State) (c : Nat) : (s.countOnly c).mode = s.mode := rfl
@[simp] theorem State.countOnly_glb (s : State) (c : Nat) : (s.countOnly c).glb = s.glb := rfl
@[simp] theorem State.countOnly_parts (s : State) (c : Nat) : (s.countOnly c).parts = s.parts := rfl
@[simp] theorem State.countOnly_hops (s : State) (c : Nat) : (s.countOnly c).hops = s.hops := rfl
@[simp] theorem State.countOnly_served (s : State) (c : Nat) : (s.countOnly c).served = s.served := rfl
@[simp] theorem State.countOnly_pkts (s : State) (c : Nat) : (s.countOnly c).pkts = s.pkts := rfl
@[simp] theorem State.countOnly_nextId (s : State) (c : Nat) : (s.countOnly c).nextId = s.nextId := rfl
@[simp] theorem State.countOnly_ctxs (s : State) (c : Nat) : (s.countOnly c).ctxs = s.ctxs := rfl
@[simp] theorem State.countOnly_engines (s : State) (c : Nat) : (s.countOnly c).engines = s.engines := rfl
@[simp] theorem State.countOnly_mem (s : State) (c : Nat) : (s.countOnly c).mem = s.mem := rfl
@[simp] theorem State.countOnly_wins (s : State) (c : Nat) : (s.countOnly c).wins = s.wins := rfl
@[simp] theorem State.countOnly_host (s : State) (c : Nat) : (s.countOnly c).host = s.host := rfl
@[simp] theorem State.countOnly_regions (s : State) (c : Nat) : (s.countOnly c).regions = s.regions := rfl
@[simp] theorem State.countOnly_sec (s : State) (c : Nat) : (s.countOnly c).sec = s.sec := rfl
@[simp] theorem State.countOnly_err (s : State) (c : Nat) : (s.countOnly c).err = s.err := rfl
@[simp] theorem State.countOnly_aon (s : State) (c : Nat) : (s.countOnly c).aon = { s.aon with summary := addAt s.aon.summary c 65535 } := rfl
@[simp] theorem State.countOnly_image (s : State) (c : Nat) : (s.countOnly c).image = s.image := rfl
@[simp] theorem State.countOnly_pwr (s : State) (c : Nat) : (s.countOnly c).pwr = s.pwr := rfl
@[simp] theorem State.countOnly_flash (s : State) (c : Nat) : (s.countOnly c).flash = s.flash := rfl
@[simp] theorem State.countOnly_pins (s : State) (c : Nat) : (s.countOnly c).pins = s.pins := rfl
@[simp] theorem State.countOnly_tap (s : State) (c : Nat) : (s.countOnly c).tap = s.tap := rfl
@[simp] theorem State.countOnly_msix (s : State) (c : Nat) : (s.countOnly c).msix = s.msix := rfl
@[simp] theorem State.countOnly_ports (s : State) (c : Nat) : (s.countOnly c).ports = s.ports := rfl
@[simp] theorem State.countOnly_herd (s : State) (c : Nat) : (s.countOnly c).herd = s.herd := rfl
@[simp] theorem State.countOnly_train (s : State) (c : Nat) : (s.countOnly c).train = s.train := rfl
@[simp] theorem State.countOnly_replay (s : State) (c : Nat) : (s.countOnly c).replay = s.replay := rfl
@[simp] theorem State.countOnly_verdictLost (s : State) (c : Nat) : (s.countOnly c).verdictLost = s.verdictLost := rfl
@[simp] theorem State.countOnly_time (s : State) (c : Nat) : (s.countOnly c).time = s.time := rfl
@[simp] theorem State.countOnly_frac (s : State) (c : Nat) : (s.countOnly c).frac = s.frac := rfl
@[simp] theorem State.countOnly_out (s : State) (c : Nat) : (s.countOnly c).out = s.out := rfl
@[simp] theorem State.countOnly_fallow (s : State) (c : Nat) : (s.countOnly c).fallow = s.fallow := rfl
@[simp] theorem State.countOnly_free (s : State) (c : Nat) : (s.countOnly c).free = s.free := rfl

/-! ### withoutPll -/

@[simp] theorem State.withoutPll_pending (s : State) (i : Nat) : (s.withoutPll i).pending = s.pending := rfl
@[simp] theorem State.withoutPll_mode (s : State) (i : Nat) : (s.withoutPll i).mode = s.mode := rfl
@[simp] theorem State.withoutPll_glb (s : State) (i : Nat) : (s.withoutPll i).glb = s.glb := rfl
@[simp] theorem State.withoutPll_parts (s : State) (i : Nat) : (s.withoutPll i).parts = s.parts := rfl
@[simp] theorem State.withoutPll_hops (s : State) (i : Nat) : (s.withoutPll i).hops = s.hops := rfl
@[simp] theorem State.withoutPll_served (s : State) (i : Nat) : (s.withoutPll i).served = s.served := rfl
@[simp] theorem State.withoutPll_pkts (s : State) (i : Nat) : (s.withoutPll i).pkts = s.pkts := rfl
@[simp] theorem State.withoutPll_nextId (s : State) (i : Nat) : (s.withoutPll i).nextId = s.nextId := rfl
@[simp] theorem State.withoutPll_ctxs (s : State) (i : Nat) : (s.withoutPll i).ctxs = s.ctxs := rfl
@[simp] theorem State.withoutPll_engines (s : State) (i : Nat) : (s.withoutPll i).engines = s.engines := rfl
@[simp] theorem State.withoutPll_mem (s : State) (i : Nat) : (s.withoutPll i).mem = s.mem := rfl
@[simp] theorem State.withoutPll_wins (s : State) (i : Nat) : (s.withoutPll i).wins = s.wins := rfl
@[simp] theorem State.withoutPll_host (s : State) (i : Nat) : (s.withoutPll i).host = s.host := rfl
@[simp] theorem State.withoutPll_regions (s : State) (i : Nat) : (s.withoutPll i).regions = s.regions := rfl
@[simp] theorem State.withoutPll_sec (s : State) (i : Nat) : (s.withoutPll i).sec = s.sec := rfl
@[simp] theorem State.withoutPll_err (s : State) (i : Nat) : (s.withoutPll i).err = s.err := rfl
@[simp] theorem State.withoutPll_aon (s : State) (i : Nat) : (s.withoutPll i).aon = s.aon := rfl
@[simp] theorem State.withoutPll_image (s : State) (i : Nat) : (s.withoutPll i).image = s.image := rfl
@[simp] theorem State.withoutPll_pwr (s : State) (i : Nat) : (s.withoutPll i).pwr = { s.pwr with plls := s.pwr.plls &&& ~~~ BitVec.ofNat 9 (2 ^ i) } := rfl
@[simp] theorem State.withoutPll_flash (s : State) (i : Nat) : (s.withoutPll i).flash = s.flash := rfl
@[simp] theorem State.withoutPll_pins (s : State) (i : Nat) : (s.withoutPll i).pins = s.pins := rfl
@[simp] theorem State.withoutPll_tap (s : State) (i : Nat) : (s.withoutPll i).tap = s.tap := rfl
@[simp] theorem State.withoutPll_msix (s : State) (i : Nat) : (s.withoutPll i).msix = s.msix := rfl
@[simp] theorem State.withoutPll_ports (s : State) (i : Nat) : (s.withoutPll i).ports = s.ports := rfl
@[simp] theorem State.withoutPll_herd (s : State) (i : Nat) : (s.withoutPll i).herd = s.herd := rfl
@[simp] theorem State.withoutPll_train (s : State) (i : Nat) : (s.withoutPll i).train = s.train := rfl
@[simp] theorem State.withoutPll_replay (s : State) (i : Nat) : (s.withoutPll i).replay = s.replay := rfl
@[simp] theorem State.withoutPll_verdictLost (s : State) (i : Nat) : (s.withoutPll i).verdictLost = s.verdictLost := rfl
@[simp] theorem State.withoutPll_time (s : State) (i : Nat) : (s.withoutPll i).time = s.time := rfl
@[simp] theorem State.withoutPll_frac (s : State) (i : Nat) : (s.withoutPll i).frac = s.frac := rfl
@[simp] theorem State.withoutPll_out (s : State) (i : Nat) : (s.withoutPll i).out = s.out := rfl
@[simp] theorem State.withoutPll_fallow (s : State) (i : Nat) : (s.withoutPll i).fallow = s.fallow := rfl
@[simp] theorem State.withoutPll_free (s : State) (i : Nat) : (s.withoutPll i).free = s.free := rfl

end Sys2Proof.Machine
end

