-- ==== Sys2Proof/Laws/Ops.lean ====
section
/-!
SUPPORT. What each shared operation can do, said once: the log, the end of a packet, the outcome of a command, a step, the
path of a packet through decode and dispatch, and the look-ups that a change of another entry leaves alone.
-/
namespace Sys2Proof.Machine

variable {s t : State}

/-! ### Outcomes -/

/-- A bounded command answers a next state exactly when its instances exist. -/
theorem bounded_next {ok : Bool} {u : State} (h : bounded ok s = .next u) : ok = true ∧ u = s := by
  unfold bounded at h
  split at h
  · exact ⟨by assumption, by injection h with h; exact h.symm⟩
  · cases h

theorem noted_next {ok : Bool} {u : State} (h : noted ok s = .next u) : ok = true ∧ u = s.noteAll := bounded_next h

@[simp] theorem bounded_true (s : State) : bounded true s = .next s := rfl
@[simp] theorem bounded_false (s : State) : bounded false s = .fault .noSuchInstance := rfl
@[simp] theorem noted_true (s : State) : noted true s = .next s.noteAll := rfl
@[simp] theorem noted_false (s : State) : noted false s = .fault .noSuchInstance := rfl

/-- CONFLICT_SEEN and the idle periods of the halves are all that noting changes. -/
theorem noteAll_frame (s : State) : s.noteAll = { s with glb := s.noteAll.glb, pwr := s.noteAll.pwr } := rfl

/-! ### Steps -/

theorem step_empty (h : s.pending = []) : step s = .next s.tick := by simp [step, h]

/-! ### MSI-X and the error log (13 R371, R372) -/

/-- A message or a pending bit: nothing else changes. -/
theorem msixSend_frame (s : State) (f v : Nat) :
    s.msixSend f v = { s with msix := (s.msixSend f v).msix, out := (s.msixSend f v).out } := by
  unfold State.msixSend
  split
  · rfl
  · split <;> rfl

/-- An AER message is sent or not: nothing else changes. -/
theorem aerOf_frame (s : State) (c : Nat) : s.aerOf c = { s with out := (s.aerOf c).out } := by
  unfold State.aerOf
  split <;> rfl

/-- What an error event sends: a message, a pending bit; nothing else. -/
theorem errSend_frame (s : State) (c : Nat) :
    s.errSend c = { s with msix := (s.errSend c).msix, out := (s.errSend c).out } := by
  unfold State.errSend
  split
  · rw [msixSend_frame, aerOf_frame]
  · rw [aerOf_frame]

/-- The log and the AON island after an error event. -/
theorem logEntry_err (s : State) (e : ErrEntry) : (s.logEntry e).err = s.err.add { e with time := s.now } := by
  rw [State.logEntry, errSend_frame]

theorem logEntry_aon (s : State) (e : ErrEntry) : (s.logEntry e).aon = s.aon.add { e with time := s.now } := by
  rw [State.logEntry, errSend_frame]

/-- An error event changes the log, the AON summary, and what is sent; nothing else. -/
theorem logEntry_frame (s : State) (e : ErrEntry) :
    s.logEntry e = { s with
      err := (s.logEntry e).err, aon := (s.logEntry e).aon, msix := (s.logEntry e).msix, out := (s.logEntry e).out } := by
  rw [State.logEntry, errSend_frame]

theorem log_frame (s : State) (cause unit : Nat) (part : Option Nat) (a b : Nat) :
    s.log cause unit part a b = { s with
      err := (s.log cause unit part a b).err, aon := (s.log cause unit part a b).aon,
      msix := (s.log cause unit part a b).msix, out := (s.log cause unit part a b).out } := logEntry_frame _ _

/-- The ring keeps its 256 places. -/
theorem ErrLog.add_length (l : ErrLog) (e : ErrEntry) : (l.add e).entries.length = l.entries.length := by
  unfold ErrLog.add
  dsimp only
  split <;> exact List.length_set

theorem logEntry_length (s : State) (e : ErrEntry) : (s.logEntry e).err.entries.length = s.err.entries.length := by
  rw [logEntry_err, ErrLog.add_length]

/-- An error event leaves DEBUG_WAS_OPENED alone. -/
theorem logEntry_debugOpened (s : State) (e : ErrEntry) : (s.logEntry e).aon.debugOpened = s.aon.debugOpened := by
  rw [logEntry_aon]; rfl

/-! ### Look-ups -/

theorem find_map_other {α : Type} (l : List α) (p q : α → Bool) (f : α → α) (hq : ∀ x, q x = true → p x = false ∧ p (f x) = false) :
    (l.map fun x => if q x then f x else x).find? p = l.find? p := by
  induction l with
  | nil => rfl
  | cons x l ih =>
    simp only [List.map_cons, List.find?_cons]
    by_cases h : q x = true
    · simp [h, (hq x h).1, (hq x h).2, ih]
    · simp [h, ih]

/-- A change of one packet leaves the others alone. -/
theorem pkt_modPkt_other (s : State) {i j : Nat} (f : Pkt → Pkt) (hf : ∀ p, (f p).id = p.id) (h : j ≠ i) :
    (s.modPkt i f).pkt j = s.pkt j := by
  have := find_map_other s.pkts (fun p => p.id = j) (fun p => p.id = i) f (by intro x hx; simp at hx; simp [hf, hx, h.symm])
  simpa [State.pkt, State.modPkt] using this

/-- The changed packet is found changed. -/
theorem pkt_modPkt_same (s : State) {i : Nat} (f : Pkt → Pkt) (hf : ∀ p, (f p).id = p.id) :
    (s.modPkt i f).pkt i = (s.pkt i).map f := by
  simp only [State.pkt, State.modPkt]
  induction s.pkts with
  | nil => rfl
  | cons x l ih =>
    by_cases h : x.id = i
    · simp [h, hf]
    · simp [h]; simpa [h] using ih

@[simp] theorem hop_modHop_other (s : State) {h i : Nat} (f : Hopper → Hopper) (hi : i ≠ h) : (s.modHop h f).hop i = s.hop i := by
  simp [State.hop, State.modHop, List.getD_eq_getElem?_getD, Ne.symm hi]

theorem hop_modHop_same (s : State) {h : Nat} (f : Hopper → Hopper) (hh : h < s.hops.length) : (s.modHop h f).hop h = f (s.hop h) := by
  simp [State.hop, State.modHop, List.getD_eq_getElem?_getD, hh]

@[simp] theorem eng_modEng_other (s : State) {e i : Nat} (f : Engine → Engine) (hi : i ≠ e) : (s.modEng e f).eng i = s.eng i := by
  simp [State.eng, State.modEng, List.getD_eq_getElem?_getD, Ne.symm hi]

theorem eng_modEng_same (s : State) {e : Nat} (f : Engine → Engine) (he : e < s.engines.length) : (s.modEng e f).eng e = f (s.eng e) := by
  simp [State.eng, State.modEng, List.getD_eq_getElem?_getD, he]

@[simp] theorem part_modPart_other (s : State) {p i : Nat} (f : Part → Part) (hi : i ≠ p) : (s.modPart p f).part i = s.part i := by
  simp [State.part, State.modPart, List.getD_eq_getElem?_getD, Ne.symm hi]

theorem part_modPart_same (s : State) {p : Nat} (f : Part → Part) (hp : p < s.parts.length) : (s.modPart p f).part p = f (s.part p) := by
  simp [State.part, State.modPart, List.getD_eq_getElem?_getD, hp]

/-! ### The end of a packet (03 R63) -/

/-- A packet that ends without an error changes nothing but itself. -/
theorem endPkt_good_frame (s : State) (i r0 r1 c : Nat) (fl : Flags) :
    s.endPkt i .ok r0 r1 fl c = { s with pkts := (s.endPkt i .ok r0 r1 fl c).pkts } := rfl

/-- What the end of a packet can touch: packets, contexts, engines, and the partitions' overflow frames. -/
def EndsOnly (s t : State) : Prop :=
  t = { s with pkts := t.pkts, ctxs := t.ctxs, engines := t.engines, parts := t.parts }

theorem EndsOnly.refl (s : State) : EndsOnly s s := rfl

theorem EndsOnly.trans {s t u : State} (h : EndsOnly s t) (k : EndsOnly t u) : EndsOnly s u := by
  unfold EndsOnly at *
  rw [k, h]

theorem EndsOnly.foldl {α : Type} (f : State → α → State) (hf : ∀ s x, EndsOnly s (f s x)) (l : List α) (s : State) :
    EndsOnly s (l.foldl f s) := by
  induction l generalizing s with
  | nil => exact .refl s
  | cons x l ih => exact (hf s x).trans (ih _)

theorem freeRecord_endsOnly (s : State) (c : Ctx) : EndsOnly s (s.freeRecord c) := by
  unfold State.freeRecord
  split
  · exact .refl s
  · refine EndsOnly.trans (t := (s.modEng _ _).modEng _ _) rfl (EndsOnly.foldl _ (fun s r => ?_) _ _)
    split <;> rfl

theorem freeCtx_endsOnly (s : State) (h : Nat) : EndsOnly s (s.freeCtx h) := by
  unfold State.freeCtx
  split
  · exact (freeRecord_endsOnly s _).trans rfl
  · exact .refl s

theorem freeAll_endsOnly (s : State) (h : Nat) : EndsOnly s (s.freeAll h) :=
  (EndsOnly.foldl _ freeCtx_endsOnly _ s).trans (freeCtx_endsOnly _ _)

theorem closeFailed_endsOnly (s : State) (p : Pkt) (st : Status) : EndsOnly s (s.closeFailed p st) := by
  unfold State.closeFailed
  (repeat' split) <;> first | exact .refl s | exact freeAll_endsOnly s _ | rfl

/-- The end of a packet, whatever its status, leaves memory, registers, the herd and the training path as they were. -/
theorem endPkt_endsOnly (s : State) (i : Nat) (st : Status) (r0 r1 : Nat) (fl : Flags) (c : Nat) :
    EndsOnly s (s.endPkt i st r0 r1 fl c) := by
  unfold State.endPkt
  dsimp only
  split
  · rfl
  · refine EndsOnly.trans ?_ (EndsOnly.trans (EndsOnly.foldl _ freeCtx_endsOnly _ _) rfl)
    split
    · exact (EndsOnly.trans (t := s.modPkt i _) rfl (closeFailed_endsOnly _ _ _)).trans rfl
    · rfl

/-! ### The path of a packet -/

/-- Dispatch: a partition without engines ends an opcode of the engines (R22), an operand out of reach ends the packet with
MEM_FAULT (R75), else its body runs. -/
theorem dispatch_eq (s : State) (o : OpBody) (p : Pkt) :
    s.dispatch o p =
      if ((opInfo p.op).map (·.e)).getD false && (s.taken p).unfenced p.part = [] then
        (s.taken p).endPkt p.id .engineFenced 0 0
      else match (s.taken p).rowFault p.part (o.dec (s.taken p) p).reach with
        | some a => (s.taken p).endPkt p.id .memFault a 0
        | none => o.body (s.taken p) (((s.taken p).pkt p.id).getD p) := rfl

/-- A packet that passes decode and dispatch runs its opcode's body. -/
theorem runPacket_dispatched {h : Nat} {o : OpBody} {q : Pkt} (hd : s.dispatched h o = some (q, t)) :
    s.runPacket h o = o.body t q := by
  unfold State.dispatched at hd
  split at hd
  · cases hd
  · rename_i p hf
    dsimp only at hd
    split at hd
    · rename_i hc
      simp only [Bool.and_eq_true, decide_eq_true_eq] at hc
      obtain ⟨⟨⟨⟨⟨h1, -⟩, h2⟩, h3⟩, h4⟩, h5⟩ := hc
      split at hd
      · cases hd
      · rename_i x hx
        split at hd
        · rename_i hc
          simp only [Bool.and_eq_true, decide_eq_true_eq] at hc
          obtain ⟨⟨⟨⟨g1, g2⟩, g3⟩, g5⟩, g4⟩ := hc
          injection hd with hd
          injection hd with e1 e2
          subst e1 e2
          have h6 : (s.decodeView p).judge p (o.units p) (o.dec (s.decodeView p) p) = none := by simpa using h5
          have g4 := Option.isNone_iff_eq_none.mp g4
          have hr : s.runPacket h o = (o.atDecode (s.decoded p) (((s.decoded p).pkt p.id).getD p)).tryDispatch o p.id := by
            simp [State.runPacket, State.withFront, hf, h1, h2, h3, h4, h6, State.decoded]
          rw [hr]
          simp only [State.tryDispatch, hx, g1, g2, g3, decide_true, Bool.and_self, if_true]
          rw [dispatch_eq, if_neg (by simp only [Bool.not_eq_true'] at g5; simp [g5]), g4]
        · cases hd
    · cases hd

end Sys2Proof.Machine
end

