-- ==== Sys2Proof/Tests/Slice0.lean ====
section
/-!
SUPPORT. Tests: an ill-formed command for each check of WellFormed, for each statement a state and operands that meet its
hypotheses (witness_<statement>), and single steps against values that the manual gives (test_<what>).
-/

namespace Sys2Proof.Tests

set_option Elab.async false
open Sys2Proof Sys2Proof.Machine

/-! ### States and packets -/

/-- READY after reset. -/
def rd : State := State.reset

/-- READY with all of HBM in partition 0. -/
def om : State := { rd with mem := { owner := List.replicate 96 0 } }

/-- A packet of Hopper 0, partition 0, with these dwords from dword 0 on. -/
def pk (dw : List Nat) (units : Nat := 1) : Pkt :=
  { id := 0, hop := 0, cls := 2, part := 0, func := 0,
    dw := (dw.map (BitVec.ofNat 32)) ++ List.replicate (16 * units - dw.length) 0 }

/-- A state whose one packet is p. -/
def one (s : State) (p : Pkt) : State := { s with pkts := [p], nextId := 1 }

/-- The packet is dispatched to o, and then this holds. -/
def goes (s : State) (o : OpBody) (f : Pkt → State → Bool := fun _ _ => true) : Bool :=
  match s.dispatched 0 o with
  | some (q, t) => f q t
  | none => false

/-- The command answers a next state, and this holds of it. -/
def gives (c : Instr) (s : State) (f : State → Bool := fun _ => true) : Bool :=
  match exec c s with
  | .next t => f t
  | _ => false

/-- This holds of the packet with this number. -/
def withPkt (s : State) (i : Nat) (f : Pkt → Bool) : Bool :=
  match s.pkt i with
  | some r => f r
  | none => false

/-- A descriptor: base, length, rows, stride, format word. -/
def ds (base len rows stride fmt : Nat) : List Nat := [base, 0, len, 0, rows, stride, 0, fmt]

/-- Three tensors of one row of 32 FP32 elements. -/
def x1 : List Nat := ds 0 32 1 128 0
def x2 : List Nat := ds 0x1000 32 1 128 0
def x3 : List Nat := ds 0x2000 32 1 128 0

/-- A tensor packet of two slots, and of three. -/
def t2 (op w2 w3 : Nat) (a b : List Nat) : Pkt := pk ([op, 1, w2, w3] ++ a ++ [0, 0, 0, 0] ++ b) 2
def t3 (op w2 w3 : Nat) (a b c : List Nat) : Pkt := pk ([op, 1, w2, w3] ++ a ++ [0, 0, 0, 0] ++ b ++ c) 2

/-- Hopper h enabled. -/
def en (h : Nat) : State := { rd with hops := (rd.hops.modify h fun k => { k with en := true }) }

/-- A live context. -/
def cx (h : Nat) : Ctx := { handle := h, mode := 0, kind := 0, part := 0, cls := 2, hop := 0 }

/-- A start on which every check passes and no twin is present. -/
def goodStart : StartEnv :=
  { supplies := true, bootSel := 0, fuseBad := none, pllBad := none, bistBad := none, badEngines := 0, hbmBad := none,
    crash := none, twin := .absent }

/-! ### A signed image in flash slot A, and its key -/

/-- Big-endian bytes of a 384-bit number. -/
def be48 (n : Nat) : List (BitVec 8) := (leBytes 48 n).reverse
def pubKey : List (BitVec 8) :=
  be48 0x13194f2c5021c3d4c26d96c2f681da7ef1060a3d8753761639a634b1579acf304cbfac534b28353e57d92c9ae95d4094 ++
  be48 0xb5ec63dae9f617bedbdb051545f2af27573fe4cc08a5cdef650807a3781c0de7a230c5b1c390df4746dcbd013a4d37cf
def pubHash : Nat :=
  0x8775a87850acca6415421270487acd47a191292e5e640857312250fb7c2e075fc4ebdf859380875691f3caae231b1352
/-- SHA-384 of an image of 4,096 erased bytes. -/
def erasedHash : Nat :=
  0x9761a6cc8f381514125bd5461b11a17a721703fb2179ddf15348b6276b47fe93bbca565060bdb425c99cae93fbd68d84
/-- The signed 256 bytes of a header (12 Table PWR-8A): key 0, firmware 7, an image of 4,096 bytes. -/
def signedHeader : List (BitVec 8) :=
  leBytes 4 0x57464E57 ++ leBytes 2 1 ++ [0, 0] ++ leBytes 4 7 ++ leBytes 4 0 ++ leBytes 4 4096 ++ List.replicate 44 0 ++ pubKey ++
  be48 erasedHash ++ List.replicate 48 0
def signature : List (BitVec 8) :=
  be48 0x7ae9e1db1160794c70c1ef071be5191f6c66240f4608fbe8a44ecd36c3ed5db97500f2e4d84e3fb45850fd6f4303302b ++
  be48 0x23e6deb1043fbdef77a0a30a691bb1deb75adba11a50dc97df424ff31f74867eff0f12a41384b54fe5a791dd84792f29

theorem header_is_signed : signed pubKey signature signedHeader = true := by decide +kernel
theorem key_has_hash : sha384 pubKey = pubHash := by decide +kernel
theorem erased_has_hash : sha384 (List.replicate 4096 0xFF) = erasedHash := by decide +kernel

/-- A device in reset whose flash holds that image, with its key fused. -/
def signedFlash : State :=
  { rd with
    mode := .inReset
    flash := { cells := writeCells 0xFF [] 0 (signedHeader ++ signature) }
    sec := { rd.sec with fuses := { rd.sec.fuses with keyHash := [BitVec.ofNat 384 pubHash, 0, 0, 0] }
                         inForce := { rd.sec.fuses with keyHash := [BitVec.ofNat 384 pubHash, 0, 0, 0] } } }

theorem signedFlash_cells : signedFlash.flash.cells = writeCells 0xFF [] 0 (signedHeader ++ signature) := by
  simp only [signedFlash]

/-- What the flash gives of the bytes of slot A. -/
theorem signedFlash_reads (k n : Nat) (h : k + n ≤ (signedHeader ++ signature).length) :
    signedFlash.flashRead (slotBaseOf false + k) n = ((signedHeader ++ signature).drop k).take n := by
  have e : slotBaseOf false + k = 0 + k := rfl
  rw [State.flashRead, signedFlash_cells, e]
  generalize signedHeader ++ signature = bs at h ⊢
  exact readCells_writeCells bs [] 0 k n rfl h
theorem signedFlash_reads_number (k n : Nat) (h : k + n ≤ (signedHeader ++ signature).length) :
    signedFlash.flashBytes (slotBaseOf false + k) n = ofBytes (((signedHeader ++ signature).drop k).take n) :=
  congrArg ofBytes (signedFlash_reads k n h)

theorem header_length : (signedHeader ++ signature).length = 352 := by decide +kernel

theorem image_is_erased : signedFlash.imageHash false = erasedHash := by
  have size : signedFlash.imageSize false = 4096 :=
    (signedFlash_reads_number 0x10 4 (by rw [header_length]; decide)).trans (by decide +kernel)
  have low : 0 + (signedHeader ++ signature).length ≤ slotBaseOf false + 0x1000 := by rw [header_length]; decide
  have bytes : signedFlash.flashRead (slotBaseOf false + 0x1000) 4096 = List.replicate 4096 0xFF := by
    rw [State.flashRead, signedFlash_cells]
    generalize signedHeader ++ signature = bs at low ⊢
    rw [readCells_writeCells_above bs [] 0 _ 4096 rfl low, readCells_nil]
  rw [State.imageHash, size, bytes]
  exact erased_has_hash
theorem test_signed_slot_passes : signedFlash.slotFails false = 0 := by
  have at0 (n : Nat) : signedFlash.flashRead (slotBaseOf false) n = signedFlash.flashRead (slotBaseOf false + 0) n := rfl
  have key : ((signedHeader ++ signature).drop 0x40).take 96 = pubKey := by decide +kernel
  have sig : ((signedHeader ++ signature).drop 0x100).take 96 = signature := by decide +kernel
  have hdr : ((signedHeader ++ signature).drop 0).take 0x100 = signedHeader := by decide +kernel
  unfold State.slotFails State.imageSize
  rw [image_is_erased]
  dsimp only
  rw [at0, at0, signedFlash_reads, signedFlash_reads, signedFlash_reads, signedFlash_reads, signedFlash_reads,
    signedFlash_reads_number, signedFlash_reads_number, signedFlash_reads_number, signedFlash_reads_number, key, sig, hdr,
    header_is_signed, key_has_hash]
  all_goals first
    | (rw [header_length]; decide)
    | decide +kernel

/-! ### Well-formed commands: one ill-formed command for each check -/

theorem test_wf_hopper : (Instr.nop 255).wf = true ∧ (Instr.nop 256).wf = false ∧
    (match exec (.nop 256) rd with | .fault .noSuchInstance => true | _ => false) = true := by decide +kernel
theorem test_wf_function : (Instr.doorbellTailWrite 16 0 0).wf = false ∧ (Instr.errClear 16).wf = false := by decide +kernel
theorem test_wf_engine : (Instr.segmentEnd 8).wf = false ∧ (Instr.tileComplete 0 128).wf = false := by decide +kernel
theorem test_wf_partition : (Instr.pressureLimitWrite 0 8 0).wf = false ∧ (Instr.pressureWindowEnd 8).wf = false := by
  decide +kernel
theorem test_wf_granules : (Instr.granuleOwnWrite 0 12 0).wf = false := by decide +kernel
theorem test_wf_peak : (Instr.ctxPeakWrite 0 8 0).wf = false := by decide +kernel
theorem test_wf_register : (Instr.lowDwordRead 0 (.dword (2 ^ 24))).wf = false ∧ (Instr.lowDwordRead 0 (.wide (2 ^ 24))).wf = false := by decide +kernel
theorem test_wf_bar2 : (Instr.bar2Read 0 (2 ^ 36) 1).wf = false ∧ (Instr.bar2Write 0 (2 ^ 36) [0] false).wf = false := by
  decide +kernel
theorem test_wf_key : (Instr.keyAssign 0 0 8).wf = false ∧ (Instr.keyLoad 0 16).wf = false := by decide +kernel
theorem test_wf_fuse : (Instr.revokeKey 0 4).wf = false := by decide +kernel
theorem test_wf_port : (Instr.retrain 0 4).wf = false ∧ (Instr.ackTimeout 4).wf = false ∧ (Instr.nakReceive 0 4096).wf = false := by
  decide +kernel
theorem test_wf_vector : (Instr.msixVectorUnmask 0 2048).wf = false := by decide +kernel
theorem test_wf_response : (Instr.dbgResponse [0]).wf = false := by decide +kernel
theorem test_wf_half : (Instr.dozeEntry 2).wf = false ∧ (Instr.selfRefreshEntry 4).wf = false ∧ (Instr.pllLoss 9).wf = false := by
  decide +kernel
theorem test_wf_unit : (Instr.fatalSram 0x48 0).wf = false ∧ (Instr.sramCe 8 0).wf = false := by decide +kernel
theorem test_wf_hbm : (Instr.l2Poison hbmBytes).wf = false ∧ (Instr.cacheRefetch (.l1 8 false) 0).wf = false ∧
    (Instr.hbmRefresh (hbmBytes / 32) .ok).wf = false ∧ (Instr.aonUe (.keySlot 16) 0).wf = false := by decide +kernel
theorem test_wf_member : (Instr.memberLost 64).wf = false ∧ (Instr.takeover 0 64).wf = false ∧
    (Instr.checkpointPage 0 0 pagesMax []).wf = false ∧ (Instr.restoreQuery (.asked 64 0)).wf = false := by decide +kernel

/-! ### Witnesses: the queue and the whole machine -/

theorem witness_StepRunsFrontCommand :
    ({ rd with pending := [.dissolve, .syncTimer] } : State).pending = .dissolve :: [.syncTimer] := by decide +kernel
theorem witness_EmptyQueueTicks : rd.pending = [] ∧ rd.mode ≠ .off ∧ rd.herd.formed = false := by decide +kernel
theorem witness_RunsExactlyWhenWellFormed :
    (Instr.segmentEnd 7).wf = true ∧ (Instr.segmentEnd 8).wf = false := by decide +kernel
theorem witness_EffectsLeaveTheQueueAlone : gives .throttleStep rd = true := by decide +kernel
theorem witness_EveryStepKeepsPacketNumbersRising :
    idsRise (one rd (pk [1])).nextId (one rd (pk [1])).pkts = true ∧
    gives (.nop 0) (one rd (pk [1])) (fun t => idsRise t.nextId t.pkts) = true := by decide +kernel
theorem witness_EveryStepKeepsStateSafe :
    rd.safe = true ∧ (match step rd with | .next t => t.safe | _ => false) = true := by decide +kernel

/-- A flash operation that runs in FALLOW, at address 256. -/
def flash (op : Nat) : State :=
  { rd with mode := .fallow, flash := { busy := true, op := op, opAddr := 256, opData := List.replicate 256 0x5A } }
/-- A fuse operation in progress. -/
def fusing (op : FuseOp) : State := { rd with sec := { rd.sec with fuseOp := some op } }
/-- Debug Open at one of its stages. -/
def debugAt (n : Nat) : State := { rd with sec := { rd.sec with dbg := n, nonceOk := n = 1 } }

theorem witness_FlashFusesAndDebugChangeOnlyByTheirEvents :
    gives (.flashOpDone true) (flash 3) (fun t => t.flash.cells != (flash 3).flash.cells) = true ∧
    gives (.fuseOpDone true) (fusing .disableDebug) (fun t => t.sec.fuses != rd.sec.fuses) = true ∧
    gives .vddAonLoss ({ rd with aon := { rd.aon with debugOpened := true } }) (fun t => !t.aon.debugOpened) = true ∧
    (debugAt 3).aon.debugOpened = false ∧ gives (.debugEraseDone none) (debugAt 3) (fun t => t.aon.debugOpened) = true := by
  decide +kernel

/-! ### SMBus, TAP, Debug Open -/

theorem witness_SmbusCommandsAnswer :
    rd.aonUp = true ∧ ({ rd with mode := .fallow } : State).aonUp = true ∧ ({ rd with mode := .deep } : State).aonUp = true ∧
    (let s : State := { rd with aon := { rd.aon with alert := 0x20 } }; s.aonUp = true ∧ s.aon.alert &&& s.aon.alertMask ≠ 0) := by
  decide +kernel
theorem witness_TapInstructions : rd.mode ≠ .off ∧ rd.mode ≠ .debugOpen := by decide +kernel
theorem witness_DebugOpensByChallenge :
    (rd.mode = .ready ∧ rd.pcieUp = true ∧ rd.sec.dbg = 0 ∧ rd.sec.inForce.debugDisable = false ∧ rd.sec.lockedOut = false ∧
      rd.pwr.deepGrant = false ∧ (∀ k ∈ rd.hops, k.en = false) ∧ rd.pkts = []) ∧
    (let s : State := { rd with mode := .halted }
     s.mode = .halted ∧ s.pcieUp = true ∧ s.sec.dbg = 0 ∧ s.sec.inForce.debugDisable = false ∧ s.sec.lockedOut = false) ∧
    ({ rd with sec := { rd.sec with inForce := { rd.sec.inForce with debugDisable := true } } } : State).sec.inForce.debugDisable = true ∧
    ({ rd with sec := { rd.sec with lockedOut := true } } : State).sec.lockedOut = true ∧
    ((debugAt 1).pcieUp = true ∧ (debugAt 1).sec.dbg = 1 ∧ (debugAt 1).sec.nonceOk = true) ∧
    (List.replicate 192 (0 : BitVec 8)).length = 192 ∧ (debugAt 3).sec.dbg = 3 ∧ (debugAt 3).running = true := by decide +kernel

/-- Verification of these bytes against a fused key hash. -/
def verifying (hash : Nat) (sig : List (BitVec 8)) : State :=
  { debugAt 2 with sec := { (debugAt 2).sec with
      checking := (pubKey ++ sig, signedHeader), inForce := { rd.sec.inForce with debugKeyHash := BitVec.ofNat 384 hash } } }

theorem witness_DebugOpenErasesKeys :
    (∀ sig, (verifying pubHash sig).sec.dbg = 2 ∧ (verifying pubHash sig).running = true ∧
      (verifying pubHash sig).sec.checking.1 = pubKey ++ sig) ∧ pubKey.length = 96 ∧
    sha384 pubKey = (verifying pubHash signature).sec.inForce.debugKeyHash.toNat ∧
    signed pubKey signature (verifying pubHash signature).sec.checking.2 = true ∧
    sha384 pubKey ≠ (verifying 0 signature).sec.inForce.debugKeyHash.toNat ∧
    ¬signed pubKey (List.replicate 96 0) (verifying pubHash (List.replicate 96 0)).sec.checking.2 = true :=
  ⟨fun _ => ⟨rfl, rfl, rfl⟩, by decide +kernel, key_has_hash.trans (by decide +kernel), header_is_signed,
    by rw [key_has_hash]; decide +kernel, by decide +kernel⟩

/-! ### Key Store, fuses, flash, doors of the Hoppers -/

/-- A key command of the physical function for slot 15, which is in this state; region 4 uses the slot or none does. -/
def keyed (cmd st : Nat) (used : Bool) : State :=
  { rd with sec := { rd.sec with
      queue := [{ func := 0, cmd := cmd, slot := 15, owner := 7, key1 := 1, key2 := 2, dbg := false }]
      slots := rd.sec.slots.set 15 { state := st, owner := 3 }
      regions := if used then rd.sec.regions.set 4 { enable := true, slot := 15, size := 4096 } else rd.sec.regions } }

theorem witness_KeyCommandsKeepTheirOrder :
    (rd.funcUp 15 = true ∧ (rd.keyFunc 15).busy = false) ∧
    (∀ x ∈ [(1, 0), (2, 2), (3, 1), (4, 2), (5, 2)], (keyed x.1 x.2 false).pcieUp = true ∧
      (∀ r ∈ (keyed x.1 x.2 false).sec.regions, ¬(r.enable = true ∧ r.slot = 15)) ∧
      ((keyed x.1 x.2 false).sec.slots.getD 15 {}).state = x.2) ∧
    ((keyed 2 2 true).pcieUp = true ∧ (∃ r ∈ (keyed 2 2 true).sec.regions, r.enable = true ∧ r.slot = 15)) := by decide +kernel
theorem witness_FusesAreProgrammed :
    (rd.mode = .ready ∧ rd.pcieUp = true ∧ rd.sec.fuseOp = none ∧ (3 : Nat) ≠ rd.image.keyIndex ∧
      rd.sec.fuses.revoke ||| BitVec.ofNat 4 (2 ^ 3) ≠ 0xF) ∧
    (fusing (.revoke 3)).pcieUp = true ∧ (fusing (.revoke 3)).sec.fuseOp = some (.revoke 3) := by decide +kernel
theorem witness_FlashIsWrittenInFallow :
    (let s : State := { rd with mode := .fallow }
     s.pcieUp = true ∧ s.flash.busy = false ∧ s.flash.addr % 4096 = 0 ∧ s.flash.addr % 256 = 0) ∧
    (∀ op ∈ [1, 2, 3], (flash op).mode = .fallow ∧ (flash op).flash.busy = true ∧ Memory.wf (flash op) = true ∧
      (flash op).flash.op = op) ∧
    (∀ a < 256, (flash 3).flashByte (256 + a) = 0xFF) ∧ (flash 1).flash.opAddr + (flash 1).flash.opLen ≤ 0x800000 := by
  decide +kernel

/-- Port 3 DOWN. -/
def portDown : State := { rd with ports := (rd.ports.modify 3 fun k => { k with state := 0 }) }
/-- The newest entry of the log is a corrected word of the West L2 half, counted 255 times. -/
def counted : State :=
  { rd with err := { rd.err with head := 1, entries := rd.err.entries.set 0 { cause := 0x10, unit := 0x10, a := 128, count := 255 } } }

theorem witness_ErrorLogIsCountedAndCleared :
    (portDown.pcieUp = true ∧ (portDown.port 3).state = 0) ∧
    (rd.started = true ∧ rd.err.entries.length = 256 ∧ rd.err.head < 256 ∧ (rd.err.entries.getD 255 {}).cause ≠ 0x10) ∧
    (counted.started = true ∧ counted.err.entries.length = 256 ∧ (counted.err.entries.getD 0 {}).cause = 0x10 ∧
      (counted.err.entries.getD 0 {}).unit = 0x10 ∧ (counted.err.entries.getD 0 {}).a = BitVec.ofNat 64 128) := by decide +kernel
theorem witness_DoorbellsMoveTheirIndex :
    (en 255).funcUp 0 = true ∧ (en 255).hopReach 0 255 = true ∧ ((en 255).hop 255).en = true ∧
    63 < 2 ^ ((en 255).hop 255).cmdLog2 ∧ 2 ^ ((en 255).hop 255).cmdLog2 ≤ 64 ∧ 63 < 2 ^ ((en 255).hop 255).cplLog2 ∧
    63 ≠ ((en 255).hop 255).cplHead ∧ rd.funcUp 0 = true ∧ rd.hopReach 0 255 = true ∧ (rd.hop 255).en = false := by decide +kernel
theorem witness_HopperIsEnabled :
    rd.sized = true ∧ rd.mode = .ready ∧ rd.pcieUp = true ∧ (rd.hop 255).en = false ∧ rd.idle 255 = true ∧
    rd.glb.lock = false ∧ rd.sec.hopLock = false ∧ 0x1010F707 % 2 = 1 ∧ field 0x1010F707 2 1 ≠ 0 ∧
    field 0x1010F707 15 12 = 15 ∧ field 0x1010F707 20 16 = 16 ∧ field 0x1010F707 28 24 = 16 := by decide +kernel

/-- One reply is counted toward an interrupt on vector 2047, which is unmasked. -/
def coalescing : State :=
  { rd with hops := (rd.hops.modify 255 fun k => { k with irqSeen := 1, irqVec := 2047 }), msix := { unmasked := [(0, 2047)] } }
/-- A pending message on a masked vector. -/
def waiting : State := { rd with msix := { pending := [(0, 2047)] } }

theorem witness_InterruptsOfHoppers :
    (rd.funcUp 0 = true ∧ rd.hopReach 0 255 = true ∧ field 2047 10 0 < Config.msixTableSize ∧ (rd.hop 255).irqSeen = 0) ∧
    (coalescing.running = true ∧ 0 < (coalescing.hop 255).irqSeen ∧
      coalescing.msix.unmasked.contains ((coalescing.hop 255).func, (coalescing.hop 255).irqVec) = true) ∧
    (waiting.funcUp 0 = true ∧ (0, 2047) ∈ waiting.msix.pending ∧ (0, 2047) ∉ waiting.msix.unmasked) := by decide +kernel

/-! ### Packets -/

/-- FENCE on host memory at address 0 with this threshold. -/
def fenceAt (threshold : Nat) : Pkt := pk [2, 0, 0xA, 0, 0, 0, threshold]
/-- The same, waiting. -/
def fenceWaiting : State := one rd { fenceAt 1 with stage := .running, wait := .fence 0 }
/-- A running segment. -/
def seg (left : Nat) (urgent : Bool) : Seg :=
  { pkt := 0, k := 0, urgent := urgent, row0 := 0, tile0 := 0, count := 1, pass0 := 0, row := 0, tile := 0, pass := 0, left := left }
/-- Partition 0 holds engine 0, partition 1 holds engine 1, which is busy. -/
def twoParts : State :=
  { rd with parts := [{ mapped := true, mask := 1 }, { mapped := true, mask := 2 }] ++ List.replicate 6 {}
            engines := (rd.engines.modify 1 fun g => { g with run := some (seg 1 false) }) }

theorem witness_DispatchRunsTheOpcode : goes (one rd (pk [1])) nopBody = true := by decide +kernel
theorem witness_GoodEndsHoldTheReply : (one rd (pk [1])).pkt 0 = some (pk [1]) := by decide +kernel
theorem witness_ControlPacketsReply :
    goes (one rd (pk [1])) nopBody = true ∧ goes (one rd (pk [0x62])) herdTimeBody = true ∧
    goes (one rd (pk [4])) timestampBody (fun q _ => !bit (q.w 2) 0) = true ∧
    goes (one rd (pk [0x70, 0, 7, 9])) seedBody (fun q _ => q.part < 8) = true ∧ rd.sized = true ∧
    goes (one rd (pk [5])) frameTickBody (fun q t => q.part < 8 && (t.part q.part).frameMirror = 0) = true ∧
    goes (one { rd with mode := .fallow } (pk [0x71])) fallowExitBody = true ∧
    (let s := one rd (pk [0xFF])
     s.running = true ∧ s.front 0 = some (pk [0xFF]) ∧ s.mayDecode (pk [0xFF]) = true ∧ opInfo (pk [0xFF]).op = none) := by
  decide +kernel
theorem witness_FencesWaitForTheirWord :
    goes (one rd (pk [2])) fenceBody (fun q t => !t.epochAhead q && !bit (q.w 2) 0 && !bit (q.w 2) 1 && !bit (q.w 2) 2) = true ∧
    (∀ n < 2, goes (one rd (fenceAt n)) fenceBody (fun q t => !t.epochAhead q && !bit (q.w 2) 0 && bit (q.w 2) 1 &&
      !bit (q.w 2) 2 && bit (q.w 2) 3) = true) ∧
    (fenceWaiting.running = true ∧ fenceWaiting.front 0 = some { fenceAt 1 with stage := .running, wait := .fence 0 } ∧
      (fenceWaiting.hostNews [(0, 1)]).epochAhead { fenceAt 1 with stage := .running, wait := .fence 0 } = false) := by
  decide +kernel
theorem witness_EpochFenceEmptiesThePartition :
    goes (one { rd with ctxs := [cx 256] } (pk [3])) epochBody (fun q t => q.part < 8 && t.sized && !bit (q.w 2) 0) = true := by
  decide +kernel
theorem witness_SleepHintsAreAnswered :
    goes (one { rd with parts := (rd.parts.modify 0 fun k => { k with mask := 0 }) } (pk [8, 0, 1])) sleepBody
      (fun q t => t.partEngines q.part = []) = true ∧
    (∀ n < 3, goes (one rd (pk [8, 0, n])) sleepBody (fun q t => t.partEngines q.part != [] && q.w 2 % 4 = n &&
      t.dozeReasons q = 0 && t.deepReasons q = 0) = true) ∧
    (∀ n < 3, goes (one twoParts (pk [8, 0, n])) sleepBody (fun q t => t.partEngines q.part != [] &&
      t.dozeReasons q != 0 && t.deepReasons q != 0) = true) ∧
    goes (one { en 1 with hops := (rd.hops.modify 1 fun k => { k with en := true, tail := 1 }) } (pk [8, 0, 2])) sleepBody
      (fun q t => t.dozeReasons q = 0 && t.deepReasons q != 0) = true := by decide +kernel
theorem witness_EnginesAreFencedAndRead :
    goes (one rd (pk [0x68, 0, 0x81])) engineFenceBody (fun q t => t.sized && (List.range 8).all fun e =>
      !bit (q.w 2) e || ((t.eng e).run.isNone && (t.eng e).susp.isNone)) = true ∧
    goes (one { rd with engines := (rd.engines.modify 7 fun g => { g with fenced := true }) } (pk [0x69, 0, 0x80]))
      (engineUnfenceBody 0) (fun _ t => t.sized) = true ∧
    goes (one { om with mode := .debugOpen } (pk [0x78])) accReadBody (fun q t => ((t.eng 0).bank 0).wMark.isNone &&
      (match t.writeBytes { part := some q.part, pkt := some q.id } (q.a40 4) (t.bankBytes 0 0 false) with
       | (none, _) => true | _ => false)) = true := by decide +kernel

/-! ### CONFIG_SET -/

/-- CONFIG_SET of an item: dword 3, base and size. -/
def cfg (item w3 base size : Nat) : Pkt := pk [0x7F, 0, item, w3, base % 2 ^ 32, base / 2 ^ 32, size]

theorem witness_ConfigItemsTakeEffect :
    goes (one { rd with parts := (rd.parts.modify 0 fun k => { k with mask := 0x0F }) } (cfg 1 0x1F007 0 0))
      (itemBody 1 mapOffs State.partitionMap) (fun q t => q.item = 1 && t.sized) = true ∧
    goes (one rd (cfg 2 0x107 0 0)) (itemBody 2 placementOffs State.itemRegs) (fun q _ => q.item = 2) = true ∧
    goes (one rd (cfg 3 0 (90 * 2 ^ 30) (2 ^ 30))) (itemBody 3 stashOffsOf State.itemRegs) (fun q _ => q.item = 3) = true ∧
    goes (one om (cfg 4 0 0 (2 ^ 20))) (itemBody 4 overflowOffs State.itemRegs) (fun q _ => q.item = 4) = true ∧
    goes (one rd (cfg 5 0 (90 * 2 ^ 30) (2 ^ 30))) (itemBody 5 replayOffs State.itemRegs) (fun q _ => q.item = 5) = true ∧
    goes (one rd (cfg 6 0 (88 * 2 ^ 30) 0)) (itemBody 6 reserveOffs State.itemRegs) (fun q _ => q.item = 6) = true ∧
    goes (one rd (cfg 7 0 0 (2 ^ 30))) (itemBody 7 paramOffs State.itemRegs) (fun q _ => q.item = 7 && q.a40 6 != 0) = true ∧
    goes (one rd (cfg 8 0x107 0 0)) (itemBody 8 flagOffs State.itemRegs) (fun q _ => q.item = 8) = true ∧
    goes (one rd (cfg 9 0x107 0 0)) (itemBody 9 flagOffs State.itemRegs) (fun q _ => q.item = 9) = true ∧
    goes (one { om with sec := { om.sec with slots := om.sec.slots.set 15 { state := 2, key1 := 1, key2 := 2 } } }
      (cfg 10 0x1F0F 0 65536)) (itemBody 10 protectOffs State.protect) (fun q _ => q.item = 10) = true := by decide +kernel

/-! ### Compute, contexts, ranges, stash, replay -/

theorem witness_ComputePacketsBegin :
    goes (one om (t2 0x18 0 0 x1 (ds 0x1000 1 1 4 0))) (compBody opREDUCE State.replayArmed) = true ∧
    goes (one om (t2 0x20 0 0 x1 x2)) (compBody opSFN State.replayArmed) = true ∧
    goes (one om (t3 0x21 1 0 x1 x2 x3)) (compBody opEWISE State.replayArmed) = true ∧
    goes (one om (t2 0x28 0 0x3F800000 x1 x2)) (compBody opSOFTMAX State.replayArmed) = true ∧
    goes (one om (t2 0x29 0 0 x1 x2)) (compBody opLAYERNORM State.replayArmed) = true ∧
    goes (one om (t2 0x2A 0 0 x1 x2)) (compBody opRMSNORM State.replayArmed) = true ∧
    goes (one om (t3 0x2B 0 0 x1 x2 x3)) (compBody opSOFTMAX_BWD State.replayArmed) = true ∧
    goes (one om (t3 0x2C 0 0 x1 x2 x3)) (compBody opNORM_BWD State.replayArmed) = true ∧
    goes (one om (t2 0x38 0 0 x1 x2)) (compBody opCOPY State.replayArmed) = true ∧
    goes (one { om with ctxs := [cx 256] } (pk ([0x11, 0x1000080, 0, 0] ++ ds 0 32 1 0 0))) feedBody = true := by decide +kernel

/-- CTX_OPEN that waits for a slot. -/
def openWaiting : Pkt := { pk [0x10] with stage := .decoded, wait := .ctx }
/-- The context of the packet may be read at once. -/
def readable (q : Pkt) (t : State) : Bool :=
  match t.ctx q.handle with
  | some c => !c.lost && !(t.eng (handleEngine c.handle)).fenced && c.feeds = [] && c.record.isNone && !c.herd && q.wait = .none
  | none => false

theorem witness_ContextsAreOpenedAndClosed :
    goes (one om (pk [0x10])) openBody = true ∧
    goes (one { om with ctxs := [cx 256] } (pk [0x13, 0x1000080])) queryBody (fun q t => readable q t) = true ∧
    goes (one { om with ctxs := [cx 256] } (pk [0x12, 0x1000080])) closeBody
      (fun q t => readable q t && !bit (q.w 2) 0) = true ∧
    (let s := one om openWaiting
     s.running = true ∧ s.enginePart 7 = some 0 ∧ (s.byClass 0).find? (fun k => k.wait = .ctx &&
       (k.stage = .decoded || k.stage = .running)) = some openWaiting ∧ s.front 0 = some openWaiting ∧ openWaiting.op = 0x10 ∧
       openWaiting.stage ≠ .ended) := by decide +kernel

/-- A dirty line of L2 at device address 128, and its copy in engine 7's L1. -/
def dirtyLine : L2Line :=
  { line := om.locOf 128 / 128, addr := 1, owner := 0, secs := [{ valid := true, dirty := true, written := true, data := 7 }, {}, {}, {}] }
def cached : State :=
  { om with mem := { om.mem with lines := [dirtyLine] }
            engines := om.engines.modify 7 fun g => { g with l1 := [{ line := dirtyLine.line, epoch := 0, secs := [some 7, none, none, none] }] } }

theorem witness_RangePacketsReply :
    goes (one om (pk [0x30, 0, 1, 0, 0, 0, 32])) prefetchBody (fun q t => (t.firstBad q.part false (q.a40 4) (q.a40 6)).isNone &&
      q.a40 6 = 32 && !t.present (q.a40 4)) = true ∧
    goes (one cached (pk [0x31, 0, 0, 0, 128, 0, 128])) flushBody
      (fun q t => (t.firstBad q.part false (q.a40 4) (q.a40 6)).isNone) = true ∧
    goes (one cached (pk [0x32, 0, 0, 0, 128, 0, 128])) invalBody
      (fun q t => (t.firstBad q.part false (q.a40 4) (q.a40 6)).isNone && !bit (q.w 2) 0 && t.sized) = true ∧
    goes (one om (pk [0x33, 0, 0x140F, 0, 0, 0, 4096])) windowBody (fun q t => t.sized && bit (q.w 2) 12) = true ∧
    goes (one om (pk [0x33, 0, 0x000F])) windowBody (fun q t => t.sized && !bit (q.w 2) 12) = true := by decide +kernel

/-- A stash of 1 GiB in granule 90, with the header of a RAW record of one FP32 row at its start. -/
def stash : State :=
  { om with mem := { owner := (List.replicate 96 0).set 90 0xE }, regions := { stashBase := 90 * 2 ^ 30, stashSize := 2 ^ 30 } }
def stashAddr : List Nat := [90 * 2 ^ 30 % 2 ^ 32, 90 * 2 ^ 30 / 2 ^ 32]
def recordHeader : List (BitVec 8) :=
  leBytes 1 0 ++ leBytes 1 1 ++ leBytes 1 0 ++ leBytes 1 0 ++ leBytes 4 0 ++ leBytes 8 32 ++ leBytes 4 1 ++ leBytes 4 0 ++
  leBytes 8 32 ++ leBytes 8 33 ++ List.replicate 24 0
def stashed : State := { stash with mem := { stash.mem with hbm := writeCells 0 [] (stash.locOf (90 * 2 ^ 30)) recordHeader } }

theorem witness_StashPacketsReply :
    goes (one stash (pk ([0x40, 0, 0, 0] ++ x1 ++ stashAddr))) saveBody = true ∧
    goes (one stashed (pk ([0x41, 0, 0, 0] ++ x1 ++ stashAddr))) loadBody = true := by decide +kernel

/-- A recorded NOP. -/
def recorded : Rec :=
  { hop := 0, cls := 2, func := 0, dw := (pk [1]).dw, seed := 0, reads := [], writes := [], outs := [], digest := 0, ctx := 0,
    status := .ok, flags := {}, r0 := 0, r1 := 0, pages := [], engines := 8, resident := false, again := false }

theorem witness_ReplayRecordsAndRuns :
    goes (one om (pk [0x5A, 0, 0, 5])) armBody (fun q _ => !bit (q.w 2) 0) = true ∧
    goes (one om (pk [0x5A, 0, 1])) armBody (fun q _ => bit (q.w 2) 0) = true ∧
    (let s : State := { om with replay := { armed := some (0, 1, 0), recs := [recorded] } }
     s.replay.armed = some (0, 1, 0) ∧ 1 ≤ s.replay.recs.length) ∧
    goes (one { om with replay := { recs := [recorded] } } (pk [0x5B])) runBody = true := by decide +kernel

/-! ### Training, herd and collective packets -/

/-- A parameter region of 1 GiB at 0, a checkpoint reserve, and a twin. -/
def tr : State :=
  { om with mem := { owner := (List.replicate 96 0).set 2 0xE }
            regions := { paramBase := 0, paramSize := 2 ^ 30, ckptBase := some (88 * 2 ^ 30), pages := [(0, 0xB)] }
            pwr := { om.pwr with twinAbsent := false } }
/-- UPDATE_STEP of four FP32 parameters to step 1. -/
def updPkt : Pkt :=
  pk [0x50, 1, 0, 0, 0, 0, 4, 0, 0x10000000, 0, 0x10000, 0, 1, 0, 0, 0, 0x3F800000, 0, 0, 0, 0, 0x3F800000] 2

theorem witness_StepsAreUpdatedAndRolledBack :
    goes (one tr updPkt) updateBody (fun q t => !t.updWaits (updOf q)) = true ∧
    goes { one tr updPkt with train := { tr.train with ckpt := some { pkt := 5, step := 0, todo := [(0, false)] } } } updateBody
      (fun q t => t.updWaits (updOf q)) = true ∧
    goes (one { tr with train := { tr.train with committed := 5, undoOk := true } } (pk [0x52, 0, 4])) rollbackBody = true := by
  decide +kernel

/-- A manifest entry; this device as member 1 of a herd of two led by the device given; another pair as far members. -/
def ent (i tw : Nat) : Entry :=
  { serial := i, id := i, spare := false, twin := tw, replica := 0, nbr := [0xFF, 0xFF, 0xFF], rowBase := 64 * i }
def herd (leader : Nat) (s : State) : State :=
  { s with herd := { s.herd with formed := true, self := 1, device := 1, leader := leader, entries := [ent 0 1, ent 1 0]
                                 header := List.replicate 16 0 ++ [7] ++ List.replicate 47 0 } }
def herd4 : State := { herd 0 rd with herd := { (herd 0 rd).herd with entries := [ent 0 1, ent 1 0, ent 2 3, { ent 3 2 with spare := true }] } }
/-- COMMIT_STEP to step 1 may run. -/
def committing : State := one { tr with train := { tr.train with last := tr.train.last.set 0 (some 1) } } (pk [0x51, 0, 1])

theorem witness_CommitStepWaits :
    goes committing commitBody (fun _ t => !t.herd.formed && !t.noTwin) = true ∧
    goes { committing with pwr := { rd.pwr with twinAbsent := true } } commitBody (fun _ t => !t.herd.formed && t.noTwin) = true ∧
    goes (herd 1 committing) commitBody (fun _ t => t.herd.formed && t.isLeader) = true ∧
    goes (herd 0 committing) commitBody (fun _ t => t.herd.formed && !t.isLeader) = true := by decide +kernel

/-- CHECKPOINT of a region of one page; RESTORE before and after the holder's answer. -/
def ckpt : State := one { tr with regions := { tr.regions with paramSize := 65536 } } (pk [0x58, 0, 1])
def restorePkt : Pkt := pk [0x59]
def restoring : State :=
  one { tr with train := { tr.train with restore := some { pkt := 0, member := 0, step := 0, held := true } } }
    { restorePkt with stage := .decoded }

theorem witness_CheckpointAndRestoreWait :
    goes ckpt ckptBody (fun _ t => !t.noTwin && (match t.train.ckpt with
      | some c => !c.todo.isEmpty
      | none => false)) = true ∧
    goes { ckpt with pwr := { rd.pwr with twinAbsent := true } } ckptBody (fun _ t => t.noTwin) = true ∧
    (let s := one tr restorePkt
     s.running = true ∧ s.front 0 = some restorePkt ∧ s.pkt 0 = some restorePkt ∧ restorePkt.op = 0x59 ∧
       s.mayDecode restorePkt = true ∧
       (s.decodeView restorePkt).judge restorePkt 1 { offs := (s.decodeView restorePkt).restoreOffs restorePkt } = none ∧ s.noTwin = false) ∧
    (restoring.running = true ∧ restoring.front 0 = some { restorePkt with stage := .decoded } ∧
      restoring.mayDispatch { restorePkt with stage := .decoded } = true) := by decide +kernel

/-- A manifest of two twins in HBM at address 0. -/
def entryBytes (i tw : Nat) : List (BitVec 8) :=
  leBytes 8 i ++ leBytes 1 i ++ leBytes 1 0 ++ leBytes 1 tw ++ leBytes 1 0 ++ [0xFF, 0xFF, 0xFF, 0] ++ leBytes 8 (64 * i) ++
  List.replicate 8 0
def manifest : List (BitVec 8) := [1, 2, 0, 0] ++ List.replicate 60 0 ++ entryBytes 0 1 ++ entryBytes 1 0
def forming : State :=
  one { om with mem := { om.mem with hbm := writeCells 0 [] (om.locOf 0) manifest }, pwr := { om.pwr with twinAbsent := false } }
    (pk [0x60, 0, 0x201, 60000])
/-- BUCKET_REDUCE or REDUCE_SCATTER of 4 MiB, SHARD_GATHER of 64 KiB. -/
def reducing (op leader : Nat) : State :=
  one (herd leader om) (pk [op, 0, 0, 0, 0, 0, 4 * 2 ^ 20, 0, if op = 0x4A then 2 ^ 24 else 0])
def gathering (leader : Nat) : State := one (herd leader om) (pk [0x49, 0, 0, 0, 0, 0, 65536, 0, 0x100000])

theorem witness_HerdPacketsTakeEffect :
    goes forming formBody (fun q t => !t.noTwin &&
      (match t.readBytes { part := some q.part, pkt := some q.id } (q.a40 4) 64 with
       | (hd, none, v) =>
         (match v.readBytes { part := some q.part, pkt := some q.id } (q.a40 4 + 64) (32 * min (byteAt hd 1 1) 64) with
          | (es, none, w) => manifestOk (hd ++ es) (field (q.w 2) 14 8) && (findEntry (entriesOf (hd ++ es)) (q.w 2 % 64)).isSome &&
              !w.portsReady (entriesOf (hd ++ es)) (q.w 2 % 64)
          | _ => false)
       | _ => false)) = true ∧
    goes (one (herd 0 om) (pk [0x61])) leaveBody (fun _ t => t.herd.formed && t.herd.colls = [] && t.herd.closes = [] &&
      t.train.commit = none) = true ∧
    (∀ x < 2, goes (reducing 0x48 x) (redBody 0x48) (fun q t => (t.coll q.id).isSome && (t.isLeader = (x = 1))) = true ∧
      goes (reducing 0x4A x) (redBody 0x4A) (fun q t => (t.coll q.id).isSome && (t.isLeader = (x = 1))) = true ∧
      goes (gathering x) gatherBody (fun q t => (t.coll q.id).isSome && (t.isLeader = (x = 1))) = true) := by decide +kernel

/-! ### Fetch, reply, registers, memory -/

/-- A NOP in the last unit of Hopper 255's command ring, and the reply to one at the end of its completion ring. -/
def fetching : State :=
  { rd with host := writeCells 0 [] (63 * 64) [1], hops := (rd.hops.modify 255 fun k => { k with en := true, head := 63, tail := 0 }) }
def replied : Pkt := { pk [1] with hop := 255, stage := .ended }
def replying : State := one { rd with hops := (rd.hops.modify 255 fun k => { k with en := true, cplTail := 63 }) } replied

theorem witness_FetchTakesThePacket :
    fetching.running = true ∧ fetching.pwr.pme = false ∧ fetching.sized = true ∧
    (let u := fetching.hostNews []
     (∀ i < 256, u.hasPacket i = true → (u.hop i).cplFree ≠ 0) ∧ u.nextHopper = some 255 ∧ (u.hop 255).loc = false) := by
  decide +kernel
theorem witness_RepliesAreWritten :
    replying.sized = true ∧ replying.running = true ∧ replying.front 255 = some replied ∧ replied.status.good = true ∧
    replied.op ≠ 0x71 ∧ replied.recd = false ∧ replying.writesDone replied = true ∧ (replying.hop 255).loc = false ∧
    (replying.hop 255).deferred = none ∧ Memory.wf replying = true := by decide +kernel
theorem witness_RegistersTakeTheirValue :
    rd.pcieUp = true ∧ bit 1 0 = true ∧ rd.mem.owner.length = 96 ∧ rd.tenantsOff = true ∧
    (∀ p < 8, (rd.part p).spread = false) ∧ (∀ i < 8, rd.mem.owner.getD (8 * 11 + i) 0xF ≠ 0xE) ∧
    (∀ i < 8, field 0xF7654321 (4 * i + 3) (4 * i) < 8 ∨ field 0xF7654321 (4 * i + 3) (4 * i) = 0xF) ∧
    (let s : State := { rd with glb := { rd.glb with lowWrites := [(0, 0x1F0, 5)] } }
     s.pcieUp = true ∧ s.glb.lowWrites.find? (fun y => y.1 = 0 && y.2.1 = 0x110 + 0x20 * 7) = some (0, 0x110 + 0x20 * 7, 5)) := by
  decide +kernel
theorem witness_ReadsLatchTheHighDword :
    (let s : State := { rd with glb := { rd.glb with highReads := [(15, 0x24, 9)] } }
     s.funcUp 15 = true ∧ s.glb.highReads.find? (fun y => y.1 = 15 && y.2.1 = 0x24) = some (15, 0x24, 9)) ∧
    (rd.funcUp 0 = true ∧ rd.glb.highReads.find? (fun y => y.1 = 0 && y.2.1 = 0x110) = none ∧
      (match rd.regAt 0 0x110 with | some (r, false) => r.wide && r.rd | _ => false) = true) ∧
    (rd.glb.highReads.find? (fun y => y.1 = 0 && y.2.1 = 2 ^ 24 - 4) = none ∧ (rd.regAt 0 (2 ^ 24 - 4)).isNone = true) := by
  decide +kernel
theorem witness_Bar2ReachesMemory :
    (let s : State := { rd with mode := .fallow }; s.pcieUp = true ∧ Memory.wf s = true ∧ fallowSize - 4 + 4 ≤ fallowSize) ∧
    (rd.pcieUp = true ∧ rd.funcUp 15 = true ∧ rd.mode ≠ .fallow ∧ 31 % 32 + 1 ≤ 32 ∧
      rd.bar2Reach 15 false (rd.bar2Addr 15 31) = false ∧ 2 ^ 36 - 1 + 1 ≤ 2 ^ 36) ∧
    (om.pcieUp = true ∧ om.bar2Reach 0 true (om.bar2Addr 0 31) = true ∧
      ((om.spoilAt (om.bar2Addr 0 31)).writeSector {} (om.backing (om.bar2Addr 0 31) / 32) (31 % 32) [5]).1 = true) := by
  decide +kernel

/-- A COPY that runs; the states of engine 7 as its tiles move. -/
def copying : Pkt := { t2 0x38 0 0 x1 x2 with stage := .running, work := some { m := [0, 1, 2, 3, 4, 5, 6, 7] } }
def copyAt (f : Engine → Engine) : State := { one om copying with engines := om.engines.modify 7 f }
def nodeOf (p : Nat) : NodeMsg := { pkt := p, row := 0, pos := 0, phase := 0, part := 0, raw := {}, flags := {}, eng := 7, cluster := 0 }

theorem witness_SegmentsAndTilesMove :
    (let s := one om copying
     s.sized = true ∧ s.running = true ∧ s.enginePart 7 = some 0 ∧ (s.eng 7).fenced = false ∧ (s.eng 7).stopping = false ∧
     (s.eng 7).power ≠ .doze ∧ (s.eng 7).power ≠ .deep ∧ (s.eng 7).run = none ∧ (s.eng 7).susp = none ∧ 32 ≤ (s.eng 7).freePages ∧
     ((s.byClass 0).findSome? fun q => s.segFor 7 q).isSome = true) ∧
    (let s := copyAt fun g => { g with run := some (seg 0 false) }
     s.sized = true ∧ s.running = true ∧ (s.eng 7).run = some (seg 0 false) ∧ (seg 0 false).left = 0 ∧ (s.eng 7).banks = []) ∧
    (let s := copyAt fun g => { g with run := some (seg 1 true) }
     s.running = true ∧ s.enginePart 7 = some 0 ∧ s.pkt (seg 1 true).pkt = some copying ∧ (s.compOf copying).isSome = true ∧
     (s.eng 7).fenced = false ∧ (seg 1 true).left ≠ 0 ∧ ((s.eng 7).bank 127).ready (s.noOverlap 7) = true ∧
     s.clusterWaits 7 127 = false ∧ (seg 1 true).ranOn 127 < 256 * 1 ∧ (seg 1 true).urgent = true ∧
     (s.work copying.id).rowReady 0 0 = true) ∧
    (let s := copyAt fun g => { g with banks := [{ cluster := 127, tail := some {
       pkt := 0, row := 0, tile := 0, pass := 0, last := true, writes := [], flags := {} } }] }
     (((s.eng 7).bank 127).drains).isSome = true) ∧
    (let s := copyAt fun g => { g with inbox := [nodeOf 9], blocked := [nodeOf 9] }
     (s.eng 7).inbox.find? s.msgReady = some (nodeOf 9) ∧ s.pkt (nodeOf 9).pkt = none ∧ (s.eng 7).blocked = nodeOf 9 :: [] ∧
     s.pendingUsed 7 < 2048) := by decide +kernel

/-- A line that engine 7 holds, with a message about it in every queue of the engine. -/
def l0 : L2Line := { line := 5, addr := 5, owner := 0, pres := 0xFF, epoch := 3, secs := List.replicate 4 {} }
def messages : State :=
  { om with mem := { om.mem with lines := [l0] }
            engines := (om.engines.modify 7 fun g => { g with
              notices := [(5, 3)], binv := [(5, none)], answers := [(5, none)], fills := [{ line := 6, epoch := 0, secs := [] }]
              l1 := [{ line := 5, epoch := 3, secs := [] }] }) }

/-- The same engine with a full set of eight ways where the fill goes. -/
def fullSet : State :=
  { messages with engines := (messages.engines.modify 7 fun g => { g with
      l1 := (List.range 8).map fun i => { line := 1030 + 1024 * i, epoch := 2, secs := [] } }) }

theorem witness_CachesFollowTheirMessages :
    (messages.eng 7).notices = (5, 3) :: [] ∧ (messages.eng 7).binv = (5, none) :: [] ∧
    (messages.eng 7).answers = (5, none) :: [] ∧ (messages.eng 7).fills = { line := 6, epoch := 0, secs := [] } :: [] ∧
    (messages.eng 7).l1.find? (fun y => y.line = 6) = none ∧
    ((messages.eng 7).l1.filter fun y => l1Set y.line = l1Set 6).length < 8 ∧
    (let set := (fullSet.eng 7).l1.filter fun y => l1Set y.line = l1Set 6
     (fullSet.eng 7).fills = { line := 6, epoch := 0, secs := [] } :: [] ∧ (fullSet.eng 7).l1.find? (fun y => y.line = 6) = none ∧
     8 ≤ set.length ∧ set.head? = some { line := 1030, epoch := 2, secs := [] } ∧
     set.find? (fun z => z.line = 8198) = some { line := 8198, epoch := 2, secs := [] }) := by decide +kernel

/-- A record page of partition 7, on its way. -/
def recPage (a : PageAt) : RecPage := { id := 3, part := 7, at_ := a, slots := [], used := 0 }
def paging (a : PageAt) (m : PageMove) : State :=
  { om with engines := (om.engines.modify 7 fun g => { g with pages := [recPage a], move := some m }) }
/-- A closed monitor window of partition 7. -/
def pressed (above : Nat) (demote high : Bool) : State :=
  { om with parts := (om.parts.modify 7 fun q => { q with closed := [high], above := above, demoteEn := demote })
            wins := (om.wins.modify 15 fun w => { w with enable := true, part := 7, cls := 1 }) }

theorem witness_PagesAndPressureAreCounted :
    (let s := paging (.resident 1) (.out 3 4)
     s.running = true ∧ (s.eng 7).move = some (.out 3 4) ∧ (s.eng 7).pages.find? (fun x => x.id = 3) = some (recPage (.resident 1))) ∧
    (let s := paging (.frame 4) (.into 3 2)
     s.running = true ∧ s.sized = true ∧ (s.eng 7).move = some (.into 3 2) ∧
     (s.eng 7).pages.find? (fun x => x.id = 3) = some (recPage (.frame 4)) ∧ (recPage (.frame 4)).part < 8) ∧
    (∀ b : Bool, ((pressed 1 true b).part 7).closed = b :: [] ∧ (pressed 1 true b).sized = true ∧
      ((pressed 1 true b).part 7).demoteEn = true ∧ ((pressed 1 true b).part 7).above = 1 ∧
      ((pressed 1 true b).wins.getD 15 {}).cls = 1) := by decide +kernel

/-- A sector on its way to DRAM, and a read on its way back to a sector x. -/
def storing : State := { om with mem := { om.mem with wq := [{ sec := 3, data := 0x0102, poison := true }] } }
def returning (x : L2Sec) : State :=
  { om with mem := { om.mem with flight := [{ sec := 20, addr := 20, op := 0, hint := .normal, pkt := none, part := some 7 }]
                                 lines := [{ l0 with secs := [x, {}, {}, {}] }] } }

theorem witness_DramIsWrittenAndRead :
    (storing.mem.wq = { sec := 3, data := 0x0102, poison := true } :: [] ∧ Memory.wf storing = true) ∧
    (let s := returning {}
     s.running = true ∧ s.mem.flight[0]? = some { sec := 20, addr := 20, op := 0, hint := .normal, pkt := none, part := some 7 } ∧
     s.findLine (20 / 4) = some { l0 with secs := [{}, {}, {}, {}] }) ∧
    (let s := returning { valid := true, filled := true }
     s.running = true ∧ s.findLine (20 / 4) = some { l0 with secs := [{ valid := true, filled := true }, {}, {}, {}] }) ∧
    (let s := returning { valid := true, filled := true, written := true }
     s.running = true ∧ ((s.findLine (20 / 4)).map fun l => (l.secs.getD 0 {}).written) = some true) := by
  decide +kernel

/-! ### Power, start, errors, pins -/

theorem witness_PowerStatesChange :
    (let s : State := { rd with engines := (rd.engines.modify 7 fun g => { g with power := .active }) }
     s.mode = .ready ∧ (s.eng 7).quiet = true ∧ (s.eng 7).power = .active) ∧
    (let s : State := { rd with parts := (rd.parts.modify 0 fun p => { p with hint := some (2, 0) }) }
     s.mode = .ready ∧ s.mayDoze 0 = true ∧ s.mayDoze 1 = true) ∧
    (let s : State := { one om copying with pwr := { rd.pwr with eastDoze := true } }
     s.mode = .ready ∧ s.dozes 1 = true ∧ s.pwr.deepGrant = false ∧ s.halfWanted 1 = true ∧ s.dozes (3 / 2) = true) ∧
    rd.halfWanted 1 = false := by decide +kernel
theorem witness_SensorsThrottleAndTrip :
    rd.mode = .ready ∧ (if (760 : Int) ≥ 760 then max (839 : Int) 840 else 839) < 920 ∧ (920 : Int) ≤ 920 ∧
    rd.pwr.tempMax < 840 ∧ rd.aon.within10s = true ∧ rd.throttles = false ∧ 16 ≤ rd.pwr.sixteenths ∧
    (let s : State := { rd with aon := { rd.aon with within10s := false } }; s.mode = .ready ∧ s.aon.within10s = false) ∧
    (let s : State := { rd with pwr := { rd.pwr with tempMax := 900 } }; s.mode = .ready ∧ s.throttles = true) ∧
    (let s : State := { rd with pwr := { rd.pwr with sixteenths := 15, vid := 8 } }
     s.mode = .ready ∧ s.throttles = false ∧ s.mayRise = true ∧ s.pwr.sixteenths < 16) := by decide +kernel
/-- A device at the highest code has what any clock needs; that a lower one is too low for some clock is for the free value to
say (log 54). -/
theorem witness_SensorsThrottleAndTrip_vid :
    let s : State := { rd with pwr := { rd.pwr with sixteenths := 15, vid := 8 } }
    s.vidNeed (s.pwr.sixteenths + 1) ≤ s.pwr.vid := Nat.le_of_lt_succ (Config.vidNeed _ _).isLt
theorem witness_SuppliesComeAndGo :
    rd.mode = .ready ∧ rd.dozes 1 = false ∧ rd.sized = true ∧ ({ rd with mode := .off } : State).mode = .off ∧
    (let s : State := { rd with mode := .aonWait }; s.mode = .aonWait ∧ s.aon.perstPending = false) ∧
    (let s : State := { rd with mode := .inReset, pwr := { rd.pwr with supplyFault := true } }
     s.mode = .inReset ∧ s.pwr.supplyFault = true ∧ ({ goodStart with supplies := false } : StartEnv).supplies = false) ∧
    ({ rd with aon := { rd.aon with within10s := false } } : State).aon.within10s = false := by decide +kernel

/-- The signed image in flash, its key in force, in a mode. -/
def starting (m : Mode) : State := { signedFlash with mode := m }

theorem witness_ResetsStartTheDevice :
    (rd.mode = .ready ∧ rd.pwr.pme = false ∧ rd.aon.within10s = true) ∧
    ({ rd with pwr := { rd.pwr with pme := true } } : State).pwr.pme = true ∧
    (∀ m ∈ [Mode.inReset, .hold], let s := starting m
      (s.mode = .inReset ∧ s.pwr.trip = false ∧ (s.pwr.supplyFault = false ∨ goodStart.supplies = true) ∨ s.mode = .hold) ∧
      goodStart.bootSel % 4 ≠ 3 ∧ s.aon.attempts < 2 ∧ s.pwr.tempMax < 840) ∧
    (∀ s : State, s.twinDiffers goodStart.twin = 0) :=
  ⟨by decide +kernel, by decide +kernel, by decide +kernel, fun _ => rfl⟩
theorem witness_ResetsStartTheDevice_slot (m : Mode) :
    ({ starting m with sec := { (starting m).sec with inForce := (starting m).sec.fuses } } : State).chooseSlot 0 = .inl false := by
  have h : ({ starting m with sec := { (starting m).sec with inForce := (starting m).sec.fuses } } : State).slotFails false = 0 :=
    test_signed_slot_passes
  simp [State.chooseSlot, h]
theorem witness_ResetsStartTheDevice_noSlot :
    ({ rd with mode := .hold } : State).chooseSlot 0 = .inr (1 + 16 * 1) := by decide +kernel
theorem witness_PcieEventsAreAnswered :
    (starting .hold).mode = .hold ∧ rd.pcieUp = true ∧ rd.pwr.deepGrant = false ∧ rd.funcUp 15 = true ∧ rd.sized = true ∧
    rd.funcUp 0 = true := by decide +kernel

/-- L2 holds the last sector of HBM. -/
def lastSector (dirty : Bool) : State :=
  { om with mem := { om.mem with lines := [{ line := om.locOf (hbmSize - 1) / 128, addr := (hbmSize - 1) / 128, owner := 0
                                             secs := List.replicate 4 { valid := true, dirty := dirty, data := 9 } }] } }

theorem witness_ErrorsAreContained :
    (om.mode = .ready ∧ om.sized = true ∧ om.err.entries.length = 256 ∧ om.err.head < 256) ∧
    (let s : State := { om with aon := { om.aon with within10s := false } }
     s.mode = .ready ∧ s.sized = true ∧ s.aon.within10s = false ∧ s.pkts = []) ∧
    (∀ b : Bool, (lastSector b).mode = .ready ∧ (lastSector b).sized = true ∧
      ((lastSector b).l2Sector (hbmSize - 1)).map (fun x => (x.valid, x.dirty)) = some (true, b)) ∧
    15 < om.sec.slots.length := by decide +kernel
theorem witness_PinsAndTwinVerdict :
    rd.mode = .ready ∧ rd.ppsHolds = false ∧ rd.sized = true ∧ rd.pins.failIn = false ∧ rd.pwr.hbArmed = false ∧
    rd.verdictLost = false ∧
    (let s : State := { rd with herd := { rd.herd with formed := true, ppsEn := true } }
     s.mode = .ready ∧ s.ppsHolds = true ∧ s.herd.drift = false) ∧
    gives .heartbeatTimeout ({ rd with pwr := { rd.pwr with hbArmed := true } }) (fun t => t.verdictLost) = true := by decide +kernel

/-! ### Ports and herd -/

/-- Port 3 UP with two flits kept. -/
def portUp3 (expected resends : Nat) : State :=
  { rd with ports := (rd.ports.modify 3 fun k => { k with
      state := 2, expected := expected, next := 2, resends := resends
      kept := [{ seq := 0, msg := { vc := 0, name := "SYNC" }, piece := 0 }, { seq := 1, msg := { vc := 0, name := "SYNC" }, piece := 0 }] }) }
/-- A numbered flit, and one with a wrong CRC. -/
def flitBody (n : Nat) : List (BitVec 8) := [1, 2] ++ leBytes 2 n ++ [0, 0, 0, 0, 0xFF] ++ List.replicate 243 0
def flit (n : Nat) : List (BitVec 8) := flitBody n ++ leBytes 4 (crc32 (flitBody n)).toNat
def badFlit : List (BitVec 8) := flitBody 0 ++ leBytes 4 (crc32 (flitBody 0) ^^^ 1).toNat

theorem witness_PortsKeepTheirOrder :
    (rd.mode = .ready ∧ rd.sized = true ∧ (rd.port 3).state = 1 ∧ rd.herd.forming = none) ∧
    ((portUp3 4095 16).mode = .ready ∧ (portUp3 4095 16).sized = true ∧ portUp ((portUp3 4095 16).port 3) = true ∧
      16 ≤ ((portUp3 4095 16).port 3).resends ∧ ((portUp3 4095 16).port 3).waiting = []) ∧
    (let s : State := { rd with pwr := { rd.pwr with twinAbsent := false } }
     s.mode = .ready ∧ s.sized = true ∧ (s.port 3).state ≠ 0 ∧ s.herd.forming = none ∧ s.pwr.twinAbsent = false) := by decide +kernel

theorem flit_fields (n : Nat) (c : BitVec 32) :
    (flitBody n ++ leBytes 4 c.toNat).length = 256 ∧ (flitBody n ++ leBytes 4 c.toNat).take 252 = flitBody n ∧
    BitVec.ofNat 32 (byteAt (flitBody n ++ leBytes 4 c.toNat) 252 4) = c := by
  have hl : (flitBody n).length = 252 := by
    simp only [flitBody, List.length_append, leBytes_length, List.length_replicate, List.length_cons, List.length_nil]
  refine ⟨by rw [List.length_append, hl, leBytes_length], by rw [← hl, List.take_left], ?_⟩
  have : byteAt (flitBody n ++ leBytes 4 c.toNat) 252 4 = c.toNat := by
    unfold byteAt
    rw [← hl, List.drop_left, List.take_of_length_le (Nat.le_of_eq (leBytes_length _ _)), ofBytes_leBytes _ _ c.isLt]
  rw [this, BitVec.ofNat_toNat, BitVec.setWidth_eq]
theorem witness_PortsKeepTheirOrder_flit :
    (flit 4095).length = 256 ∧ crc32 ((flit 4095).take 252) = BitVec.ofNat 32 (byteAt (flit 4095) 252 4) := by
  obtain ⟨a, b, c⟩ := flit_fields 4095 (crc32 (flitBody 4095))
  exact ⟨a, (congrArg crc32 b).trans c.symm⟩
theorem witness_PortsKeepTheirOrder_header :
    byteAt (flit 4095) 0 1 = 1 ∧ byteAt (flit 4095) 1 1 % 4 ≠ 3 ∧
    byteAt (flit 4095) 2 2 % 4096 = ((portUp3 4095 16).port 3).expected ∧ byteAt (flit 4095) 8 1 = 0xFF ∧
    bit (byteAt (flit 4095) 4 2) 12 = false := by decide +kernel
theorem witness_PortsKeepTheirOrder_badFlit :
    badFlit.length = 256 ∧ crc32 (badFlit.take 252) ≠ BitVec.ofNat 32 (byteAt badFlit 252 4) := by
  obtain ⟨a, b, c⟩ := flit_fields 0 (crc32 (flitBody 0) ^^^ 1)
  refine ⟨a, fun h => ?_⟩
  have e : crc32 (flitBody 0) = crc32 (flitBody 0) ^^^ 1 := ((congrArg crc32 b).symm.trans h).trans c
  have : crc32 (flitBody 0) ^^^ (crc32 (flitBody 0) ^^^ 1) = 0#32 := by rw [← e, BitVec.xor_self]
  rw [← BitVec.xor_assoc, BitVec.xor_self, BitVec.zero_xor] at this
  exact absurd this (by decide)

/-- The same herd with port 0 UP; a formation that waits. -/
def herdUp : State := { herd 0 rd with ports := (rd.ports.modify 0 fun k => { k with state := 2 }) }
def formWaiting : State :=
  { one rd { pk [0x60] with stage := .running, wait := .herd } with
    herd := { rd.herd with forming := some { pkt := 0, self := 1, members := 2, part := 0, bytes := [1, 2] ++ List.replicate 126 0 } } }

theorem witness_HerdEventsTakeEffect :
    (herd4.mode = .ready ∧ herd4.herd.formed = true ∧ (herd4.herd.entry 2).isSome = true ∧ (herd4.herd.entry 3).isSome = true ∧
      herd4.canLose 2 = true ∧ herd4.isLeader = false ∧ herd4.herd.leader ≠ 2 ∧
      herd4.herd.deviceOf 2 < 64 ∧ herd4.train.ckpt = none) ∧
    (let s : State := { herd4 with herd := { herd4.herd with calm := 3 } }; s.isLeader = false ∧ 3 ≤ s.herd.calm) ∧
    (herd 1 rd).isLeader = true ∧
    (herdUp.mode = .ready ∧ herdUp.herd.formed = true ∧ herdUp.isLeader = false ∧ (herdUp.route herdUp.herd.leader).isSome = true) ∧
    (let s : State := { herdUp with herd := { herdUp.herd with logicalTwin := some 0 } }
     s.herd.logicalTwin = some 0 ∧ (s.route s.herd.twinId).isSome = true) ∧
    (rd.mode = .ready ∧ rd.herd.formed = false ∧ rd.herd.forming = none) ∧
    (formWaiting.mode = .ready ∧ formWaiting.herd.formed = false ∧ (formWaiting.pkt 0).isSome = true ∧
      (formWaiting.herd.forming.any fun f => f.pkt = 0 && !formWaiting.portsReady (entriesOf f.bytes) f.self) = true) := by
  decide +kernel

/-- COMMIT_STEP of step 1 in progress, within the herd or without. -/
def commitOf (inHerd : Bool) (c : CommitSt) : State :=
  let s := one tr { pk [0x51, 0, 1] with stage := .running, wait := .herd }
  let s := if inHerd then herd 0 s else s
  { s with train := { s.train with commit := some c } }
/-- This device leads the herd. -/
def leading (l : Option Lead) (resolving : Bool) : State :=
  let s := herd 1 tr
  { s with herd := { s.herd with lead := l, resolving := resolving } }
def memberState : MemberState := { x := 63, committed := 1, undecided := true, log := none, twin := none }

theorem witness_CommitMessagesTakeEffect :
    (tr.mode = .ready ∧ tr.regions.ckptBase.isSome = true) ∧
    (∀ b : Bool, let c : CommitSt := { pkt := some 0, step := 1, flipped := b }
      (commitOf true c).mode = .ready ∧ (commitOf true c).herd.formed = true ∧ (commitOf true c).train.commit = some c ∧
      ((commitOf true c).pkt 0).isSome = true ∧ (commitOf true c).train.committed = 0) ∧
    (let c : CommitSt := { pkt := some 0, step := 1, token := 9 }
     let s := commitOf false c
     s.mode = .ready ∧ s.herd.formed = false ∧ s.train.commit = some c ∧ c.acked = false ∧ (s.pkt 0).isSome = true ∧
     s.front 0 = s.pkt 0 ∧ (s.pkt 0).map (fun p => (p.wait, p.op)) = some (.herd, 0x51) ∧ s.coll 0 = none) ∧
    ((leading none false).isLeader = true ∧ (leading none false).herd.lead = none ∧ (leading none false).herd.allOf [63] = false) ∧
    (let s := leading (some { step := 1, token := some 4 }) false
     s.isLeader = true ∧ s.herd.lead = some { step := 1, token := some 4 } ∧ s.herd.allOf [63] = false) ∧
    (let s := leading none true
     s.isLeader = true ∧ s.herd.resolving = true ∧ (s.herd.live.all fun y => [memberState].any fun z => z.x = y) = false) := by
  decide +kernel

/-- A herd context whose close waits. -/
def closing : State :=
  let s := one (herd 0 om) { pk [0x12, 0x1000080] with stage := .running, wait := .herd }
  { s with ctxs := [{ cx 256 with herd := true }], herd := { s.herd with closes := [{ pkt := 0, handle := 256, k := 0 }] } }
/-- CHECKPOINT with every page sent; RESTORE that is decoded. -/
def confirming : State :=
  { one tr { pk [0x58] with stage := .running, wait := .herd } with
    train := { tr.train with ckpt := some { pkt := 0, step := 3, todo := [], sent := [1, 2] } } }
def asked : State :=
  { one tr { pk [0x59] with stage := .decoded, wait := .herd } with
    train := { tr.train with restore := some { pkt := 0, member := 0, step := 0 } } }

theorem witness_MessagesOfCollectivesAndCheckpoints :
    (let s := leading none false
     s.mode = .ready ∧ s.herd.formed = true ∧ s.isLeader = true ∧ s.herd.joins = [] ∧ s.herd.allOf [63] = false) ∧
    (let s := herd 1 om
     let u : State := { s with herd := { s.herd with self := s.herd.treeMember } }
     u.mode = .ready ∧ u.herd.formed = true ∧ u.herd.treeMember = u.herd.self ∧ (u.herd.closes.all fun c => c.k != 0) = true) ∧
    (closing.mode = .ready ∧ closing.herd.formed = true ∧
      closing.herd.closes.find? (fun x => x.k = 0) = some { pkt := 0, handle := 256, k := 0 } ∧
      (closing.pkt 0).map (fun p => (p.stage, p.wait, bit (p.w 2) 0)) = some (.running, .herd, false) ∧
      (closing.ctx 256).map (·.handle) = some 256) ∧
    (tr.mode = .ready ∧ tr.regions.ckptBase.isSome = true ∧ (addPage tr.train.held 3 114687).isSome = true) ∧
    (confirming.train.ckpt = some { pkt := 0, step := 3, todo := [], sent := [1, 2] } ∧
      (confirming.pkt 0).map (·.stage) = some .running) ∧
    (asked.train.restore = some { pkt := 0, member := 0, step := 0 } ∧ (asked.pkt 0).map (·.stage) = some .decoded ∧
      16383 < asked.paramPages) := by decide +kernel
theorem witness_pageBytes : (List.replicate 65536 (0 : BitVec 8)).length = 65536 := List.length_replicate

/-! ### Numbers, ranking, slots -/

/-- A format descriptor with OVF_MODE SAT or INF. -/
def fmtOf (f : Fmt) (sat : Bool) : Desc := { fmt := f, sat := sat }

theorem witness_NanConversions : (fmtOf .e4m3 true).fmt = .e4m3 ∧ (fmtOf .int8 true).fmt = .int8 ∧ (fmtOf .int16 false).fmt = .int16 := by
  decide +kernel
theorem witness_E4m3Saturates :
    (fmtOf .e4m3 false).fmt = .e4m3 ∧ (Val.isInf (f32val 0xFF800000)) = true ∧
    (fmtOf .e4m3 false).overflows .rne (f32val 0x44000000) = true := by decide +kernel
theorem witness_ReadsWriteBack :
    0x7F < 2 ^ (fmtOf .bf16 false).fmt.bits ∧ (fmtOf .bf16 false).daz = false ∧ (fmtOf .bf16 false).ftz = false ∧
    ((fmtOf .bf16 false).read 0x7F).isNan = false ∧ ((fmtOf .bf16 false).read 0x7F).isInf = false := by decide +kernel
theorem witness_RankingIsATotalOrder :
    (f32val 0).isNan = false ∧ (f32val 0x7FC00000).isNan = true ∧
    Rank.before false { v := 0x3F800000, idx := 1 } { v := 0, idx := 0 } = true := by decide +kernel
theorem witness_LowestFreeSlotFirst :
    (rd.slotsOn 0 0 false) = some (0, 0) ∧ (rd.slotsOn 0 2 true) = some (256, 257) := by decide +kernel

/-! ### Single steps and values against the manual's worked cases -/

-- 02, worked case: one FP32 value into each rounding mode
theorem test_round_bf16 :
    (fmtOf .bf16 false).write .rne (f32val 0x3F80C000) = (0x3F81, {}) ∧
    (fmtOf .bf16 false).write .rtz (f32val 0x3F80C000) = (0x3F80, {}) ∧
    (fmtOf .bf16 false).write (.sr 0x3FFF) (f32val 0x3F80C000) = (0x3F80, {}) ∧
    (fmtOf .bf16 false).write (.sr 0x4000) (f32val 0x3F80C000) = (0x3F81, {}) := by decide +kernel
theorem test_round_e4m3 :
    (fmtOf .e4m3 false).write .rne (f32val 0x43E10000) = (0x7E, {}) ∧
    (fmtOf .e4m3 false).write .rne (f32val 0x43EB0000) = (0x7E, { sat := true }) := by decide +kernel
theorem test_overflow_fp16 :
    (fmtOf .fp16 false).write .rne (f32val 0x4788B800) = (0x7C00, {}) ∧
    (fmtOf .fp16 true).write .rne (f32val 0x4788B800) = (0x7BFF, { sat := true }) := by decide +kernel
theorem test_round_int8 : (fmtOf .int8 false).write .rne (f32val 0xC348999A) = (0x80, { sat := true }) := by decide +kernel
-- 04 R96: LO word of M2 at CANONICAL node 5 of level 12
theorem test_locator : locator 5 12 1 1 = 0x00014C0000000005 := by decide +kernel
-- 04 R77: handle 0x2005 names slot 5 of SFE_1
theorem test_handle : handleEngine 0x2005 = 1 ∧ handleSlot 0x2005 = 5 := by decide +kernel
-- 05, worked case: TANH at its limit
theorem test_tanh :
    (fmtOf .bf16 false).write .rne (Sfn.value .tanh ((fmtOf .bf16 false).read 0x4060)) = (0x3F80, {}) ∧
    (fmtOf .bf16 false).write .rtz (Sfn.value .tanh ((fmtOf .bf16 false).read 0x4060)) = (0x3F7F, {}) ∧
    (fmtOf .bf16 false).write .rne (Sfn.value .tanh ((fmtOf .bf16 false).read 0x4050)) = (0x3F7F, {}) ∧
    (fmtOf .e4m3 false).write .rne (Sfn.value .tanh ((fmtOf .bf16 false).read 0x4050)) = (0x38, {}) ∧
    ({ fmt := .int8, scale := -7 } : Desc).write .rne (Sfn.value .tanh ((fmtOf .bf16 false).read 0x4050)) = (0x7F, { sat := true }) := by
  decide +kernel
-- 06, worked case: equal values rank in index order
theorem test_rank_tie : Rank.before false { v := 0x3DA90000, idx := 32 } { v := 0x3DA90000, idx := 50 } = true := by decide +kernel
-- 03, worked case: one SOFTMAX packet (Table CMD-8)
def softmaxPkt : Pkt :=
  pk [0x00420128, 0x21, 2, 0xBD800000, 0x40000000, 2, 0x51, 0, 0x1FA40, 0x100, 0, 1, 0, 0, 0, 0, 0x60000000, 2, 0x51, 0, 0x1FA40, 0x100, 0, 1] 2
theorem test_softmax_packet :
    softmaxPkt.op = 0x28 ∧ softmaxPkt.tag = 0x42 ∧ softmaxPkt.units = 2 ∧ (tdesc softmaxPkt 0 .tensor).base = 0x0240000000 ∧
    (tdesc softmaxPkt 0 .tensor).len = 81 ∧ (tdesc softmaxPkt 0 .tensor).rows = 129600 := by decide +kernel
-- 14, worked case: handing HOP_17 to a virtual function
def part2 : State := { rd with parts := [{ mapped := true, mask := 0x0F }, {}, { mapped := true, mask := 0xF0, func := 3 }] ++ List.replicate 5 {} }
theorem test_hop17_handed : gives (.hopCtrlWrite 0 17 0x06063204) part2 (fun t =>
    t.hop 17 = { cls := 2, part := 2, func := 3, cmdLog2 := 6, cplLog2 := 6 } && (t.regAt 0 0x20440).map (·.1.val) = some 0x06063204) = true := by
  decide +kernel
theorem test_hop17_enabled :
    gives (.hopCtrlWrite 3 17 0x0808322B)
      { part2 with hops := (part2.hops.modify 17 fun k => { k with part := 2, func := 3 }), glb := { part2.glb with lock := true } }
      (fun t => t.hop 17 = { en := true, cls := 1, loc := true, errIrq := true, part := 2, func := 3, cmdLog2 := 8, cplLog2 := 8 } &&
        (t.regAt 3 0x20440).map (·.1.val) = some 0x0808322B && (t.regAt 3 0x20444).map (·.1.val) = some 1 && t.err.head = 0) = true := by
  decide +kernel
-- 14, worked case, step 2: GRANULE_OWN_9
theorem test_granule9 : gives (.granuleOwnWrite 0 1 0xFFFFFF2F) rd (fun t =>
    t.mem.owner.getD 9 0 = 2 && t.mem.owner.getD 8 0 = 0xF && t.granuleOwner 0x0240000000 = 2) = true := by decide +kernel
-- 15 R419: IDCODE; 12 R351: the second target address
theorem test_idcode : gives .idcode rd (fun t => t.out = [.tap [0x4B, 0x05, 0x88, 0xB0]]) = true := by decide +kernel

end Sys2Proof.Tests
end

section
/-!
SUPPORT. What a packet that ends from outside, the emptying of a partition and the erasure of its keys leave alone: the
Hoppers, the mode, the unmasked vectors, whether the herd stands, and the Hopper of every packet.
-/
namespace Sys2Proof.Machine

/-! ### The view -/

/-- The part of the state that the steps of a Function Level Reset leave alone once its Hoppers are at reset, the end of the herd
aside. -/
structure Doors where
  hops : List Hopper
  mode : Mode
  unmasked : List (Nat × Nat)
  formed : Bool
  owners : List Nat          -- the Hopper of each packet, oldest first

def State.doors (s : State) : Doors :=
  { hops := s.hops, mode := s.mode, unmasked := s.msix.unmasked, formed := s.herd.formed, owners := s.pkts.map (·.hop) }

/-- The view after the Hoppers that `sel` names are back at reset and their packets are gone. -/
def Doors.without (d : Doors) (sel : Nat → Bool) : Doors :=
  { d with hops := d.hops.mapIdx (fun h k => if sel h then { cls := 2 } else k), owners := d.owners.filter fun h => !sel h }

@[simp] theorem Doors.without_owners (d : Doors) (sel : Nat → Bool) :
    (d.without sel).owners = d.owners.filter fun h => !sel h := rfl

theorem sized_hops {s : State} (hs : s.sized = true) : s.hops.length = 256 := by
  simp only [State.sized, Bool.and_eq_true, decide_eq_true_eq] at hs
  obtain ⟨⟨⟨⟨hhops, -⟩, -⟩, -⟩, -⟩ := hs
  exact hhops

/-- A Hopper after the reset of those that `sel` names. -/
theorem hop_without {s t : State} {sel : Nat → Bool} (ht : t.doors.hops = (s.doors.without sel).hops)
    (hs : s.sized = true) {h : Nat} (hh : h < 256) : t.hop h = if sel h then { cls := 2 } else s.hop h := by
  have hlen : h < s.hops.length := by rwa [sized_hops hs]
  have hhops : t.hops = s.hops.mapIdx fun h k => if sel h then { cls := 2 } else k := ht
  simp [State.hop, hhops, hlen]

/-- The Hopper of a packet in flight is among the owners. -/
theorem hop_mem_owners {s : State} {p : Pkt} (hp : p ∈ s.pkts) : p.hop ∈ s.doors.owners := List.mem_map_of_mem hp

theorem pkts_nil_of_owners {s : State} (h : s.doors.owners = []) : s.pkts = [] := List.map_eq_nil_iff.mp h

/-- A fold whose every step keeps the view keeps it. -/
theorem foldl_doors {α : Type} {f : State → α → State} (hf : ∀ s x, (f s x).doors = s.doors) (l : List α) (s : State) :
    (l.foldl f s).doors = s.doors := by
  induction l generalizing s with
  | nil => rfl
  | cons x l ih => rw [List.foldl_cons, ih, hf]

/-! ### Contexts and the end of a packet -/

theorem modPkt_doors (s : State) (i : Nat) {f : Pkt → Pkt} (hf : ∀ p, (f p).hop = p.hop) : (s.modPkt i f).doors = s.doors := by
  have howners : (s.modPkt i f).pkts.map (·.hop) = s.pkts.map (·.hop) := by
    simp only [State.modPkt, List.map_map]
    refine List.map_congr_left fun p _ => ?_
    by_cases hi : p.id = i <;> simp [hi, hf]
  exact congrArg (fun l : List Nat => { s.doors with owners := l }) howners

theorem freeRecord_doors (s : State) (c : Ctx) : (s.freeRecord c).doors = s.doors := by
  unfold State.freeRecord
  split
  · rfl
  · exact foldl_doors (fun s r => by split <;> rfl) _ _

theorem freeCtx_doors (s : State) (h : Nat) : (s.freeCtx h).doors = s.doors := by
  unfold State.freeCtx
  split
  · exact freeRecord_doors s _
  · rfl

theorem freeAll_doors (s : State) (h : Nat) : (s.freeAll h).doors = s.doors :=
  (freeCtx_doors _ _).trans (foldl_doors freeCtx_doors _ s)

theorem closeFailed_doors (s : State) (p : Pkt) (st : Status) : (s.closeFailed p st).doors = s.doors := by
  unfold State.closeFailed
  split
  · rfl
  split
  · split
    · split
      · exact freeAll_doors s _
      · rfl
    · rfl
  split <;> rfl

theorem endPkt_doors (s : State) (i : Nat) (st : Status) (r0 r1 : Nat) (fl : Flags) (c : Nat) :
    (s.endPkt i st r0 r1 fl c).doors = s.doors := by
  unfold State.endPkt
  dsimp only
  split
  · exact modPkt_doors s i fun _ => rfl
  · refine (foldl_doors freeCtx_doors _ _).trans ?_
    split
    · exact (closeFailed_doors _ _ _).trans (modPkt_doors s i fun _ => rfl)
    · exact modPkt_doors s i fun _ => rfl

/-! ### A packet ends from outside -/

theorem dropCkpt_doors (s : State) : s.dropCkpt.doors = s.doors := by
  unfold State.dropCkpt
  split
  · rfl
  · exact foldl_doors (f := fun s pg => s.setPage pg (s.pageState pg ||| 0x8)) (fun _ _ => rfl) _ s

theorem letGo_doors (s : State) (i : Nat) : (s.letGo i).doors = s.doors := by
  unfold State.letGo
  extract_lets _ freed dropped _ _ left
  have hfreed : freed.doors = s.doors := by
    unfold freed
    split
    · split <;> rfl
    · rfl
  have hdropped : dropped.doors = freed.doors := by
    unfold dropped
    split
    · split
      · exact dropCkpt_doors freed
      · rfl
    · rfl
  have hleft : left.doors = s.doors := hdropped.trans hfreed
  split
  · split <;> exact hleft
  · exact hleft

theorem abort_doors (s : State) (i : Nat) : (s.abort i).doors = s.doors := by
  unfold State.abort
  split
  · split
    · rfl
    · exact (endPkt_doors _ _ _ _ _ _ _).trans (letGo_doors s i)
  · rfl

/-! ### Emptying a partition, and its keys -/

theorem cleanLine_doors (s : State) (l : L2Line) : (s.cleanLine l).doors = s.doors :=
  foldl_doors (fun s i => by dsimp only; split <;> rfl) _ s

theorem dropL1_doors (s : State) (line : Nat) (pick : Nat → Bool) : (s.dropL1 line pick).doors = s.doors := rfl

theorem modMem_doors (s : State) (f : Mem → Mem) : (s.modMem f).doors = s.doors := rfl

theorem evictLine_doors (s : State) (l : L2Line) : (s.evictLine l).doors = s.doors := by
  unfold State.evictLine
  rw [modMem_doors, dropL1_doors, cleanLine_doors]

theorem walk_doors (s : State) (f : L2Line → Bool) (drop : Bool) : (s.walk f drop).doors = s.doors := by
  refine foldl_doors (fun s l => ?_) _ s
  split
  · exact evictLine_doors s l
  · exact cleanLine_doors s l

theorem emptyPart_doors (s : State) (p : Nat) : (s.emptyPart p).doors = s.doors := by
  unfold State.emptyPart
  dsimp only
  split
  · split <;> exact walk_doors _ _ _
  · exact walk_doors _ _ _

theorem leave_doors (r : Region) (s : State) : (r.leave s).doors = s.doors := by
  unfold Region.leave
  split
  · exact walk_doors s _ _
  · rfl

theorem dropKeys_doors (s : State) (p : Nat) : (s.dropKeys p).doors = s.doors :=
  foldl_doors (fun s _ => by exact leave_doors _ s) _ s

/-! ### Messages, and the end of the herd -/

theorem pump_doors (s : State) (p : Nat) : (s.pump p).doors = s.doors := by
  unfold State.pump
  split
  · rfl
  · refine foldl_doors (fun s x => ?_) _ (s.modPort p fun k => { k with waiting := [] })
    split <;> rfl

theorem send_doors (s : State) (vc x : Nat) (name : String) (args : List Nat) (bytes : List (BitVec 8)) :
    (s.send vc x name args bytes).doors = s.doors := by
  unfold State.send
  split
  · unfold State.sendPort
    split
    · rfl
    · exact pump_doors _ _
  · rfl

theorem sendAll_doors (s : State) (vc : Nat) (xs : List Nat) (name : String) (args : List Nat) (bytes : List (BitVec 8)) :
    (s.sendAll vc xs name args bytes).doors = s.doors :=
  foldl_doors (fun s x => send_doors s vc x name args bytes) _ s

theorem msixSend_doors (s : State) (f v : Nat) : (s.msixSend f v).doors = s.doors := by
  unfold State.msixSend
  split
  · rfl
  · split <;> rfl

theorem herdEvent_doors (s : State) (i : Nat) : (s.herdEvent i).doors = s.doors := by
  unfold State.herdEvent
  dsimp only
  split
  · exact msixSend_doors _ _ _
  · rfl

theorem herdTimeout_doors (s : State) (p : Pkt) (member : Nat) (step : BitVec 64) :
    (s.herdTimeout p member step).doors = s.doors :=
  congrArg (fun d : Doors => { d with formed := s.herd.formed }) (endPkt_doors s p.id .herdTimeout 0 0 {} 0)

theorem endHerdOps_doors (s : State) : s.endHerdOps.doors = s.doors := by
  unfold State.endHerdOps
  refine Eq.trans (foldl_doors ?_ _ _) (foldl_doors (fun s i => ?_) _ s)
  · exact fun _ _ => rfl
  split
  · split
    · rfl
    · exact herdTimeout_doors s _ _ _
  · rfl

/-- The herd is gone, and nothing else of the view changes. -/
theorem dissolve_doors (s : State) : s.dissolve.doors = { s.doors with formed := false } := by
  unfold State.dissolve
  split
  next h => simp_all [State.doors]
  next =>
    refine (herdEvent_doors _ _).trans ?_
    exact congrArg (fun d : Doors => { d with formed := false }) (endHerdOps_doors s)

theorem noteAll_doors (s : State) : s.noteAll.doors = s.doors := rfl

/-! ### Function Level Reset -/

theorem resetHops_doors (s : State) (sel : Nat → Bool) : (s.resetHops sel).doors = s.doors.without sel := by
  have habort := foldl_doors abort_doors ((s.pkts.filter fun p => sel p.hop).map (·.id)) s
  rw [← habort]
  simp [State.resetHops, State.doors, Doors.without, List.filter_map, Function.comp_def]

/-- A Function Level Reset of a virtual function: its Hoppers are at reset, its packets and unmasked vectors are gone, and
every packet left was in flight on another function's Hopper (R346). -/
theorem flrVf_doors {s : State} {f : Nat} (hf : f ≠ 0) (hup : s.funcUp f = true) :
    ∃ l ⊆ s.doors.owners.filter fun h => !decide ((s.hop h).func = f),
      (flrVf f s).doors = { s.doors.without (fun h => (s.hop h).func = f) with
        unmasked := s.msix.unmasked.filter fun x => x.1 != f, owners := l } := by
  have hreset := resetHops_doors s fun h => (s.hop h).func = f
  have hmasked : (s.resetHops fun h => (s.hop h).func = f).msix.unmasked = s.msix.unmasked := congrArg Doors.unmasked hreset
  unfold flrVf
  rw [if_neg (by simp [hf, hup])]
  extract_lets reset _ masked
  have hdoors : masked.doors = { s.doors.without (fun h => (s.hop h).func = f) with
      unmasked := s.msix.unmasked.filter fun x => x.1 != f } :=
    hmasked ▸ congrArg (fun d : Doors => { d with unmasked := reset.msix.unmasked.filter fun x => x.1 != f }) hreset
  split
  next p _ =>
    extract_lets gone ended
    have hended : ended.doors = masked.doors := foldl_doors abort_doors _ _
    refine ⟨(ended.pkts.filter fun q => q.part != p).map fun q => q.hop, ?_, ?_⟩
    · have howners : ended.pkts.map (·.hop) = s.doors.owners.filter fun h => !decide ((s.hop h).func = f) :=
        congrArg Doors.owners (hended.trans hdoors)
      exact howners ▸ List.map_subset _ fun _ hq => (List.mem_filter.mp hq).1
    · refine (dropKeys_doors _ p).trans ((emptyPart_doors _ p).trans ?_)
      exact congrArg (fun d : Doors => { d with owners := (ended.pkts.filter fun q : Pkt => q.part != p).map fun q : Pkt => q.hop })
        (hended.trans hdoors)
  next => exact ⟨_, List.Subset.refl _, hdoors⟩

/-- A Function Level Reset of the physical function: every Hopper is at reset, no packet and no herd is left (R346). -/
theorem flrPf_doors {s : State} (hup : s.funcUp 0 = true) :
    (flrPf s).doors = { s.doors.without (fun _ => true) with unmasked := [], formed := false } := by
  unfold flrPf
  rw [if_neg (by simp [hup])]
  extract_lets reset emptied apart erased
  have hemptied : emptied.doors = s.doors.without fun _ => true :=
    (foldl_doors emptyPart_doors _ _).trans (resetHops_doors s _)
  have hapart : apart.doors = { emptied.doors with formed := false } := by
    unfold apart
    split
    next => rw [dissolve_doors, sendAll_doors]
    next h => simp [State.doors, h]
  have herased : erased.doors = apart.doors := foldl_doors dropKeys_doors _ _
  rw [hapart, hemptied] at herased
  clear_value erased
  exact congrArg (fun d : Doors => { d with unmasked := [] }) herased

theorem flrPf_msix {s : State} (hup : s.funcUp 0 = true) : (flrPf s).msix = {} := by
  unfold flrPf
  rw [if_neg (by simp [hup])]

theorem flrPf_lock {s : State} (hup : s.funcUp 0 = true) : (flrPf s).glb.lock = false := by
  unfold flrPf
  rw [if_neg (by simp [hup])]

/-! ### Configuration requests and PME_Turn_Off -/

theorem mode_ne_hold_of_pcieUp {s : State} (hup : s.pcieUp = true) : s.mode ≠ .hold := by
  intro h
  simp [State.pcieUp, h] at hup

/-- The physical function exists whenever the link is up (12 R349). -/
theorem funcUp_pf {s : State} (hup : s.pcieUp = true) : s.funcUp 0 = true := by simp [State.funcUp, hup]

theorem configRequest_pf_deviceId {s : State} (hup : s.pcieUp = true) :
    configRequest 0 .deviceId s = s.emit (.config 0 (some 0x0880)) := by
  simp [configRequest, mode_ne_hold_of_pcieUp hup, funcUp_pf hup]

theorem configRequest_pf_revisionId {s : State} (hup : s.pcieUp = true) :
    configRequest 0 .revisionId s = s.emit (.config 0 (some 0xB1)) := by
  simp [configRequest, mode_ne_hold_of_pcieUp hup, funcUp_pf hup]

/-- Without a DEEP grant PME_Turn_Off is acknowledged and does nothing else (R335). -/
theorem pmeTurnOff_withoutGrant {s : State} (hup : s.pcieUp = true) (hgrant : s.pwr.deepGrant = false) :
    pmeTurnOff s = s.emit .pmeAck := by
  simp [pmeTurnOff, hup, hgrant]

/-- Settles O49: each clause by the meaning of its command; a Function Level Reset through what it makes of the view. -/
theorem pcieEventsAreAnswered : Obligations.PcieEventsAreAnswered := by
  unfold Obligations.PcieEventsAreAnswered
  intro s
  refine ⟨?hold, ?ids, ?pme, ?vf, ?pf⟩
  case hold =>
    intro f hf i hmode
    show execConfigRequest f i s = _
    simp [execConfigRequest, configRequest, hf, hmode]
  case ids =>
    intro hup
    exact ⟨congrArg _ (configRequest_pf_deviceId hup), congrArg _ (configRequest_pf_revisionId hup)⟩
  case pme =>
    intro hup hgrant
    exact congrArg (noted true) (pmeTurnOff_withoutGrant hup hgrant)
  case vf =>
    intro f hpos hlt hup hsized
    obtain ⟨l, hl, hdoors⟩ := flrVf_doors (by omega) hup
    rw [← noteAll_doors] at hdoors
    have hhop : ∀ h < 256, (flrVf f s).noteAll.hop h = if (s.hop h).func = f then { cls := 2 } else s.hop h := by
      intro h hh
      simpa using hop_without (sel := fun h => (s.hop h).func = f) (by rw [hdoors]) hsized hh
    refine ⟨(flrVf f s).noteAll, ?_, fun h hh hfunc => ?_, fun h hh hfunc => ?_, fun p hp => ?_, fun x hx => ?_, ?_⟩
    · show execFlrVf f s = _
      simp [execFlrVf, hlt]
    · rw [hhop h hh, if_pos hfunc]
    · rw [hhop h hh, if_neg hfunc]
    · have howner := hop_mem_owners hp
      rw [hdoors] at howner
      simpa using (List.mem_filter.mp (hl howner)).2
    · have hmasked : (flrVf f s).noteAll.msix.unmasked = s.msix.unmasked.filter fun x => x.1 != f :=
        congrArg Doors.unmasked hdoors
      rw [hmasked] at hx
      simpa using (List.mem_filter.mp hx).2
    · exact congrArg Doors.mode hdoors
  case pf =>
    intro hup hsized
    have hdoors := flrPf_doors hup
    rw [← noteAll_doors] at hdoors
    refine ⟨(flrPf s).noteAll, noted_true _, fun h hh => hop_without (sel := fun _ => true) (by rw [hdoors]) hsized hh,
      pkts_nil_of_owners ?_, flrPf_lock hup, flrPf_msix hup,
      congrArg Doors.formed hdoors, congrArg Doors.mode hdoors⟩
    rw [hdoors]
    simp

end Sys2Proof.Machine
end

section
/-!
SUPPORT. What stands of an engine through the end of a packet, a write and the fencing of an engine: whether it is fenced, and
the marks of what its banks hold.
-/
namespace Sys2Proof.Machine

/-! ### The view -/

/-- A cluster with the marks of its working and its Tailrace bank. -/
def Bank.marks (b : Bank) : Nat × Option Nat × Option Nat := (b.cluster, b.wMark, b.tMark)

/-- Whether an engine is fenced (R22), and the marks of its banks (R367). -/
structure Standing where
  fenced : Bool
  marks : List (Nat × Option Nat × Option Nat)

def Engine.standing (g : Engine) : Standing := { fenced := g.fenced, marks := g.banks.map Bank.marks }

def State.standing (s : State) : List Standing := s.engines.map Engine.standing

/-- What is seen of one engine, by what is seen of all. -/
theorem eng_view {β : Type} (v : Engine → β) (s : State) (e : Nat) : v (s.eng e) = (s.engines.map v).getD e (v {}) := by
  simp only [State.eng, List.getD_eq_getElem?_getD, List.getElem?_map]
  cases s.engines[e]? <;> rfl

theorem eng_standing (s : State) (e : Nat) : (s.eng e).standing = s.standing.getD e ({} : Engine).standing :=
  eng_view Engine.standing s e

/-- The marks of a cluster's banks, by the view. -/
theorem bank_marks (g : Engine) (c : Nat) :
    (g.bank c).marks = (g.standing.marks.find? fun m => m.1 = c).getD (c, none, none) := by
  have hfind : (g.banks.map Bank.marks).find? (fun m => m.1 = c) = (g.banks.find? fun b => b.cluster = c).map Bank.marks :=
    List.find?_map ..
  simp only [Engine.bank, Engine.standing, hfind]
  cases g.banks.find? fun b => b.cluster = c <;> rfl

/-- The bytes of a bank by its mark: zeros without one (R367). -/
def accBytes : Option Nat → List (BitVec 8)
  | some n => (List.range 8192).map fun i => Config.openByte n (80000 + i)
  | none => List.replicate 8192 0

theorem accBytes_length (mark : Option Nat) : (accBytes mark).length = 8192 :=
  match mark with
  | some _ => (List.length_map _).trans List.length_range
  | none => List.length_replicate

theorem bankBytes_eq (s : State) (e c : Nat) (tail : Bool) :
    s.bankBytes e c tail = accBytes (if tail then ((s.eng e).bank c).tMark else ((s.eng e).bank c).wMark) := rfl

theorem bankBytes_length (s : State) (e c : Nat) (tail : Bool) : (s.bankBytes e c tail).length = 8192 := accBytes_length _

/-- A bank without a mark reads as zeros (R367). -/
theorem bankBytes_of_unmarked {s : State} {e c : Nat} {tail : Bool}
    (h : (if tail then ((s.eng e).bank c).tMark else ((s.eng e).bank c).wMark) = none) :
    s.bankBytes e c tail = List.replicate 8192 0 :=
  congrArg accBytes h

/-- Banks whose marks stand read as before (R185). -/
theorem bankBytes_of_standing {s t : State} (h : t.standing = s.standing) (e c : Nat) (tail : Bool) :
    t.bankBytes e c tail = s.bankBytes e c tail := by
  have hmarks : ((t.eng e).bank c).marks = ((s.eng e).bank c).marks := by
    rw [bank_marks, bank_marks, eng_standing, eng_standing, h]
  obtain ⟨-, hw, ht⟩ : _ ∧ _ ∧ _ := by simpa only [Bank.marks, Prod.mk.injEq] using hmarks
  rw [bankBytes_eq, bankBytes_eq, hw, ht]

/-- The view after an operation that answers a value and a state. -/
theorem standing_of_eq {α : Type} {x : α × State} {a : α} {t : State} (heq : x = (a, t)) : t.standing = x.2.standing := by
  rw [heq]

/-- A fold whose every step keeps the view keeps it. -/
theorem foldl_standing {α : Type} {f : State → α → State} (hf : ∀ s x, (f s x).standing = s.standing) (l : List α) (s : State) :
    (l.foldl f s).standing = s.standing :=
  List.foldlRecOn (motive := fun t => t.standing = s.standing) l f rfl fun t ht x _ => (hf t x).trans ht

theorem map_mapIdx_view {α β : Type} {v : α → β} {f : Nat → α → α} (hf : ∀ i x, v (f i x) = v x) (l : List α) :
    (l.mapIdx f).map v = l.map v := by
  refine List.ext_getElem (by simp) fun i _ _ => ?_
  simp [hf]

theorem map_standing {f : Engine → Engine} (hf : ∀ g, (f g).standing = g.standing) (l : List Engine) :
    (l.map f).map Engine.standing = l.map Engine.standing := by
  rw [List.map_map]
  exact List.map_congr_left fun g _ => hf g

/-- A change of one engine, as the view sees it. -/
theorem modEng_standing_eq (s : State) (e : Nat) {f : Engine → Engine} {v : Standing → Standing}
    (hf : ∀ g, (f g).standing = v g.standing) : (s.modEng e f).standing = s.standing.modify e v := by
  refine List.ext_getElem (by simp [State.standing]) fun i _ _ => ?_
  simp only [State.standing, State.modEng_engines, List.getElem_map, List.getElem_modify]
  split
  · exact hf _
  · rfl

theorem modEng_standing (s : State) (e : Nat) {f : Engine → Engine} (hf : ∀ g, (f g).standing = g.standing) :
    (s.modEng e f).standing = s.standing :=
  (modEng_standing_eq s e (v := id) hf).trans (by simp)

/-! ### Contexts and the end of a packet -/

theorem freeRecord_standing (s : State) (c : Ctx) : (s.freeRecord c).standing = s.standing := by
  unfold State.freeRecord
  split
  · rfl
  · refine (foldl_standing (fun s r => by split <;> rfl) _ _).trans ?_
    exact (modEng_standing _ _ fun g => by rfl).trans (modEng_standing _ _ fun g => by rfl)

theorem freeCtx_standing (s : State) (h : Nat) : (s.freeCtx h).standing = s.standing := by
  unfold State.freeCtx
  split
  · exact freeRecord_standing s _
  · rfl

theorem freeAll_standing (s : State) (h : Nat) : (s.freeAll h).standing = s.standing :=
  (freeCtx_standing _ h).trans (foldl_standing freeCtx_standing _ s)

theorem closeFailed_standing (s : State) (p : Pkt) (st : Status) : (s.closeFailed p st).standing = s.standing := by
  unfold State.closeFailed
  split
  · rfl
  · split
    · split
      · split
        · exact freeAll_standing s _
        · rfl
      · rfl
    · split <;> rfl

/-- An engine that drops a packet's tiles keeps the marks: the accumulators are not zeroed (R367). -/
theorem forget_standing (g : Engine) (id : Nat) : (g.forget id).standing = g.standing := by
  simp [Engine.standing, Engine.forget, Bank.marks, Function.comp_def]

theorem endPkt_standing (s : State) (i : Nat) (st : Status) (r0 r1 : Nat) (fl : Flags) (c : Nat) :
    (s.endPkt i st r0 r1 fl c).standing = s.standing := by
  unfold State.endPkt
  dsimp only
  split
  · rfl
  · refine (foldl_standing freeCtx_standing _ _).trans ((map_standing (fun g => forget_standing g i) _).trans ?_)
    split
    · exact closeFailed_standing _ _ _
    · rfl

/-! ### A write through L2 -/

theorem modMem_standing (s : State) (f : Mem → Mem) : (s.modMem f).standing = s.standing := rfl

theorem dropL1_standing (s : State) (line : Nat) (pick : Nat → Bool) : (s.dropL1 line pick).standing = s.standing :=
  map_mapIdx_view (fun e g => by split <;> rfl) s.engines

theorem cleanLine_standing (s : State) (l : L2Line) : (s.cleanLine l).standing = s.standing :=
  foldl_standing (fun s i => by dsimp only; split <;> rfl) _ s

theorem evictLine_standing (s : State) (l : L2Line) : (s.evictLine l).standing = s.standing := by
  unfold State.evictLine
  rw [modMem_standing, dropL1_standing, cleanLine_standing]

theorem allocLine_standing (s : State) (src : Src) (line addr : Nat) : (s.allocLine src line addr).standing = s.standing := by
  unfold State.allocLine
  extract_lets owner
  split
  extract_lets evicted counted
  have hevicted : evicted.standing = s.standing := by
    unfold evicted
    split
    · exact evictLine_standing s _
    · rfl
  have hcounted : counted.standing = evicted.standing := by
    unfold counted
    split <;> rfl
  exact hcounted.trans hevicted

theorem enterLine_standing (s : State) (src : Src) (line addr : Nat) : (s.enterLine src line addr).standing = s.standing := by
  unfold State.enterLine
  split
  · split <;> rfl
  · exact allocLine_standing s src line addr

theorem monitor_standing (s : State) (src : Src) (sa : Nat) (miss : Bool) : (s.monitor src sa miss).standing = s.standing := by
  unfold State.monitor
  split
  · rfl
  · extract_lets pers
    split <;> rfl

theorem countDup_standing (s : State) (src : Src) : (s.countDup src).standing = s.standing := by
  unfold State.countDup
  dsimp only
  split <;> split <;> rfl

theorem returnTo_standing (s : State) (src : Src) (loc sa : Nat) : (s.returnTo src loc sa).standing = s.standing := by
  unfold State.returnTo
  dsimp only
  split
  · exact enterLine_standing _ _ _ _
  · split
    · exact enterLine_standing _ _ _ _
    · split <;> rfl

theorem l2Read_standing (s : State) (src : Src) (sa : Nat) : (s.l2Read src sa).2.2.standing = s.standing := by
  unfold State.l2Read
  dsimp only
  split
  · split
    · exact (returnTo_standing _ _ _ _).trans ((countDup_standing _ _).trans (monitor_standing _ _ _ _))
    · exact monitor_standing s src sa false
  · split
    · exact monitor_standing s src sa true
    · exact (enterLine_standing _ _ _ _).trans (monitor_standing s src sa true)

theorem writeSector_standing (s : State) (src : Src) (sa off : Nat) (bs : List (BitVec 8)) :
    (s.writeSector src sa off bs).2.standing = s.standing := by
  unfold State.writeSector
  extract_lets loc line i whole x put
  have hput : ∀ s d, (put s d).standing = s.standing := by
    intro s d
    unfold put
    extract_lets pres written kept
    have hkept : kept.standing = s.standing := by
      unfold kept
      split
      · exact modEng_standing _ _ fun _ => rfl
      · rfl
    split
    · exact (dropL1_standing _ _ _).trans hkept
    · exact (map_mapIdx_view (fun e g => by split <;> rfl) _).trans hkept
  split
  · split
    · exact monitor_standing _ _ _ _
    · exact (hput _ _).trans (monitor_standing _ _ _ _)
  · split
    · dsimp only
      split <;> exact monitor_standing _ _ _ _
    · split
      · exact (hput _ _).trans ((enterLine_standing _ _ _ _).trans (monitor_standing _ _ _ _))
      · dsimp only
        split
        · exact l2Read_standing s src sa
        · exact (hput _ _).trans (l2Read_standing s src sa)

theorem writeRange_standing (src : Src) (fuel : Nat) (s : State) (a : Nat) (bs : List (BitVec 8)) :
    (s.writeRange src fuel a bs).2.standing = s.standing := by
  induction fuel generalizing s a bs with
  | zero => rfl
  | succ fuel ih =>
    unfold State.writeRange
    split
    · rfl
    · dsimp only
      split
      next heq => exact (ih _ _ _).trans ((standing_of_eq heq).trans (writeSector_standing _ _ _ _ _))
      next heq => exact (standing_of_eq heq).trans (writeSector_standing _ _ _ _ _)

theorem captureWrite_standing (s : State) (src : Src) (a : Nat) (bs : List (BitVec 8)) :
    (s.captureWrite src a bs).standing = s.standing := by
  unfold State.captureWrite State.logWrite
  split <;> rfl

theorem writeBytes_standing (s : State) (src : Src) (a : Nat) (bs : List (BitVec 8)) :
    (s.writeBytes src a bs).2.standing = s.standing := by
  unfold State.writeBytes
  split
  · rfl
  · exact (writeRange_standing _ _ _ _ _).trans (captureWrite_standing s src a bs)

theorem writeAll_standing (src : Src) (ws : List (Nat × List (BitVec 8))) (s : State) :
    (s.writeAll src ws).2.standing = s.standing := by
  induction ws generalizing s with
  | nil => rfl
  | cons w ws ih =>
    unfold State.writeAll
    split
    next heq => exact (standing_of_eq heq).trans (writeBytes_standing _ _ _ _)
    next heq => exact (ih _).trans ((standing_of_eq heq).trans (writeBytes_standing _ _ _ _))

/-! ### Phases and ends of compute packets -/

theorem setAcc_standing (s : State) (h : Nat) (a : Acc) : (s.setAcc h a).standing = s.standing := by
  unfold State.setAcc
  split
  · rfl
  · split <;> rfl

theorem joinParts_standing (s : State) (p : Pkt) (c : Comp) (r : RowSt) (home : Nat) (k : AKind) :
    (s.joinParts p c r home k).2.standing = s.standing := by
  unfold State.joinParts
  dsimp only
  split
  · rfl
  · split
    · rfl
    · exact (foldl_standing freeCtx_standing _ _).trans (setAcc_standing _ _ _)

theorem feedOver_standing (s : State) (p : Pkt) (join : Bool) : (s.feedOver p join).standing = s.standing := by
  unfold State.feedOver
  split
  · split
    · exact joinParts_standing _ _ _ _ _ _
    · rfl
  · rfl

theorem compFail_standing (s : State) (id : Nat) (st : Status) (r0 : Nat) : (s.compFail id st r0).standing = s.standing := by
  unfold State.compFail
  refine (endPkt_standing _ _ _ _ _ _ _).trans ?_
  split
  · split
    · exact feedOver_standing _ _ _
    · rfl
  · rfl

theorem compResult_standing (s : State) (p : Pkt) (c : Comp) : (s.compResult p c).standing = s.standing := by
  unfold State.compResult
  dsimp only
  split
  · rfl
  · split <;> rfl

theorem settle_standing (s : State) (id : Nat) : (s.settle id).standing = s.standing := by
  unfold State.settle
  split
  · rfl
  · split
    · split
      · exact compResult_standing _ _ _
      · rfl
    · rfl

theorem rowDone_standing (s : State) (id row e : Nat) (emp short : Bool) :
    (s.rowDone id row e emp short).standing = s.standing := by
  unfold State.rowDone
  refine (modEng_standing _ e fun g => by rfl).trans ?_
  split
  · split
    · split
      · exact freeAll_standing s _
      · rfl
    · rfl
  · rfl

theorem noteWrites_standing (s : State) (id : Nat) (c : Comp) (ws : List (Nat × List (BitVec 8))) :
    (s.noteWrites id c ws).standing = s.standing :=
  map_standing (fun g => by rfl) s.engines

theorem phaseDone_standing (s : State) (p : Pkt) (c : Comp) (r : RowSt) (h : Nat) :
    (s.phaseDone p c r h).standing = s.standing := by
  unfold State.phaseDone
  dsimp -zeta only
  extract_lets k flagged
  have hflagged : flagged.standing = s.standing := joinParts_standing s p c r h k
  clear_value flagged
  rw [← hflagged]
  split
  · exact settle_standing _ _
  · split
    · rfl
    · extract_lets a rooted n root
      have hrooted : rooted.standing = flagged.standing := rfl
      clear_value rooted
      rw [← hrooted]
      split
      · split
        next heq => exact (compFail_standing _ _ _ _).trans ((standing_of_eq heq).trans (writeAll_standing _ _ _))
        next heq =>
          exact (settle_standing _ _).trans ((rowDone_standing _ _ _ _ _ _).trans ((noteWrites_standing _ _ _ _).trans
            ((standing_of_eq heq).trans (writeAll_standing _ _ _))))
      · rfl

theorem tryPhase_standing (s : State) (id row : Nat) : (s.tryPhase id row).standing = s.standing := by
  unfold State.tryPhase
  split
  · split
    · split
      · exact phaseDone_standing _ _ _ _ _
      · rfl
    · rfl
  · rfl

/-! ### Fencing an engine, waking a half, returning an engine -/

theorem dropSeg_standing (s : State) (e : Nat) (g : Seg) : (s.dropSeg e g).standing = s.standing := by
  unfold State.dropSeg
  split
  · rfl
  · split
    · rfl
    · dsimp only
      split
      · exact compFail_standing _ _ _ _
      · split
        · exact settle_standing _ _
        · rfl

/-- The mark of a fenced engine is there already. -/
theorem standing_modify_of_fenced {s : State} {e : Nat} (h : (s.eng e).fenced = true) :
    s.standing = s.standing.modify e fun v => { v with fenced := true } := by
  refine List.ext_getElem (by simp) fun i hi _ => ?_
  rw [List.getElem_modify]
  split
  next he =>
    subst he
    have hlen : e < s.engines.length := by simpa [State.standing] using hi
    have hget : s.engines[e].fenced = true := by simpa [State.eng, hlen] using h
    simp [State.standing, Engine.standing, hget]
  next => rfl

/-- An engine that fences keeps the marks of its banks, and no other engine's standing changes (R69, R367). -/
theorem fenceEngine_standing (s : State) (e cause : Nat) :
    (s.fenceEngine e cause).standing = s.standing.modify e fun v => { v with fenced := true } := by
  unfold State.fenceEngine
  split
  next h => exact standing_modify_of_fenced h
  next =>
    extract_lets g segs homes hit framed fenced failed dropped orphans freed lose lost phased
    have hframed : framed.standing = s.standing := foldl_standing (fun s r => by split <;> rfl) _ _
    have hfenced : fenced.standing = framed.standing.modify e fun v => { v with fenced := true } :=
      modEng_standing_eq _ _ fun g => by simp [Engine.standing, Bank.marks, Function.comp_def]
    have hfailed : failed.standing = fenced.standing := foldl_standing (fun s i => by exact compFail_standing s i _ _) _ _
    have hdropped : dropped.standing = failed.standing := by
      refine foldl_standing (fun s x => ?_) _ _
      split
      · split
        · exact dropSeg_standing s e x
        · rfl
      · rfl
    have hfreed : freed.standing = dropped.standing := foldl_standing freeCtx_standing _ _
    have hphased : phased.standing = freed.standing :=
      foldl_standing (fun s p => foldl_standing (fun s r => by exact tryPhase_standing s p.id r.row) _ s) _ lost
    have hended : phased.standing = s.standing.modify e fun v => { v with fenced := true } := by
      rw [hphased, hfreed, hdropped, hfailed, hfenced, hframed]
    clear_value phased
    rw [← hended]
    split
    · split
      · exact foldl_standing (fun s q => by exact compFail_standing s q.id _ _) _ _
      · rfl
    · rfl

theorem gateEngines_standing (s : State) : s.gateEngines.standing = s.standing := by
  refine map_mapIdx_view (fun e g => ?_) s.engines
  split
  · rfl
  · split <;> rfl

/-- An engine that returns keeps its marks (R80). -/
theorem returnEngine_standing (s : State) (e : Nat) :
    (s.returnEngine e).standing = s.standing.modify e fun v => { v with fenced := false } :=
  (gateEngines_standing _).trans (modEng_standing_eq _ e fun g => by rfl)

/-- A half that wakes changes nothing of an engine but its power (12 R332). -/
theorem wakeHalf_view {β : Type} {v : Engine → β} (hv : ∀ (g : Engine) (w : Power), v { g with power := w } = v g) (s : State)
    (half : Nat) : (s.wakeHalf half).engines.map v = s.engines.map v := by
  unfold State.wakeHalf
  split
  · refine map_mapIdx_view (fun e g => ?_) s.engines
    split
    · exact hv g .active
    · rfl
  · rfl

theorem wakeFor_view {β : Type} {v : Engine → β} (hv : ∀ (g : Engine) (w : Power), v { g with power := w } = v g) (s : State)
    (mask : Nat) : (s.wakeFor mask).engines.map v = s.engines.map v := by
  unfold State.wakeFor
  extract_lets west
  have hwest : west.engines.map v = s.engines.map v := by
    unfold west
    split
    · exact wakeHalf_view hv s 0
    · rfl
  split
  · exact (wakeHalf_view hv west 1).trans hwest
  · exact hwest

theorem wakeFor_standing (s : State) (mask : Nat) : (s.wakeFor mask).standing = s.standing :=
  wakeFor_view (v := Engine.standing) (fun _ _ => rfl) s mask

/-- The segment that an engine runs and the one it has suspended. -/
def Engine.runAndSusp (g : Engine) : Option Seg × Option Seg := (g.run, g.susp)

/-- The segments of an engine stay as its half wakes. -/
theorem wakeFor_segs (s : State) (mask e : Nat) :
    ((s.wakeFor mask).eng e).run = (s.eng e).run ∧ ((s.wakeFor mask).eng e).susp = (s.eng e).susp := by
  have hsegs : ((s.wakeFor mask).eng e).runAndSusp = (s.eng e).runAndSusp := by
    rw [eng_view Engine.runAndSusp, eng_view Engine.runAndSusp, wakeFor_view fun _ _ => rfl]
  exact Prod.mk.inj hsegs

/-! ### Which engines are fenced -/

theorem fenced_of_standing {s t : State} (h : t.standing = s.standing) (e : Nat) : (t.eng e).fenced = (s.eng e).fenced := by
  change (t.eng e).standing.fenced = (s.eng e).standing.fenced
  rw [eng_standing, eng_standing, h]

theorem length_of_standing {s t : State} (h : t.standing = s.standing) : t.engines.length = s.engines.length := by
  simpa [State.standing] using congrArg List.length h

/-- After a change of engine i alone, fenced or not. -/
theorem fenced_of_modify {s t : State} {i : Nat} {b : Bool} (h : t.standing = s.standing.modify i fun v => { v with fenced := b })
    {e : Nat} (he : e < s.engines.length) : (t.eng e).fenced = if e = i then b else (s.eng e).fenced := by
  have hlen : e < s.standing.length := by simpa [State.standing] using he
  change (t.eng e).standing.fenced = if e = i then b else (s.eng e).standing.fenced
  rw [eng_standing, eng_standing, h]
  simp only [List.getD_eq_getElem?_getD, List.getElem?_modify, List.getElem?_eq_getElem hlen, eq_comm (a := i)]
  split <;> rfl

theorem length_of_modify {s t : State} {i : Nat} {f : Standing → Standing} (h : t.standing = s.standing.modify i f) :
    t.engines.length = s.engines.length := by
  simpa [State.standing] using congrArg List.length h

/-- The engines of a list fence, and no other engine does. -/
theorem fenced_foldl_fenceEngine (l : List Nat) (cause : Nat) (s : State) {e : Nat} (he : e < s.engines.length) :
    ((l.foldl (fun s i => s.fenceEngine i cause) s).eng e).fenced = ((s.eng e).fenced || decide (e ∈ l)) := by
  induction l generalizing s with
  | nil => simp
  | cons i l ih =>
    have hstanding := fenceEngine_standing s i cause
    rw [List.foldl_cons, ih _ (by rwa [length_of_modify hstanding]), fenced_of_modify hstanding he]
    by_cases hi : e = i <;> simp [hi]

/-- An engine whose self-test passes returns when `named` names it (R185). -/
def State.returnNamed (named : Nat) (s : State) (e : Nat) : State :=
  if bit named e then (if (s.eng e).fenced then s.returnEngine e else s) else s

theorem returnNamed_length (named : Nat) (s : State) (i : Nat) : (s.returnNamed named i).engines.length = s.engines.length := by
  unfold State.returnNamed
  split
  · split
    · exact length_of_modify (returnEngine_standing s i)
    · rfl
  · rfl

theorem returnNamed_fenced (named : Nat) (s : State) (i : Nat) {e : Nat} (he : e < s.engines.length) :
    ((s.returnNamed named i).eng e).fenced = ((s.eng e).fenced && !(decide (e = i) && bit named i)) := by
  unfold State.returnNamed
  split
  next hi =>
    split
    next hfenced =>
      rw [fenced_of_modify (returnEngine_standing s i) he]
      by_cases h : e = i <;> simp [h, hi]
    next hfenced => by_cases h : e = i <;> simp_all
  next hi => simp [hi]

theorem fenced_foldl_returnNamed (l : List Nat) (named : Nat) (s : State) {e : Nat} (he : e < s.engines.length) :
    ((l.foldl (State.returnNamed named) s).eng e).fenced = ((s.eng e).fenced && !(decide (e ∈ l) && bit named e)) := by
  induction l generalizing s with
  | nil => simp
  | cons i l ih =>
    rw [List.foldl_cons, ih _ (by rwa [returnNamed_length]), returnNamed_fenced named s i he]
    by_cases hi : e = i <;> cases hb : bit named e <;> simp_all

end Sys2Proof.Machine
end

section
/-!
SUPPORT. ENGINE_FENCE, ENGINE_UNFENCE and DEBUG_ACC_READ (R185).
-/
namespace Sys2Proof.Machine

theorem sized_engines {s : State} (hs : s.sized = true) : s.engines.length = 8 := by
  simp only [State.sized, Bool.and_eq_true, decide_eq_true_eq] at hs
  obtain ⟨⟨⟨⟨-, -⟩, hengines⟩, -⟩, -⟩ := hs
  exact hengines

/-- The meaning of an opcode whose front packet is dispatched. -/
theorem onHopper_dispatched {h : Nat} {s t : State} {o : OpBody} {q : Pkt} (hh : h < 256) (hd : s.dispatched h o = some (q, t)) :
    s.onHopper h o = .next (o.body t q).noteAll := by
  rw [State.onHopper, runPacket_dispatched hd]
  simp [hh]

/-- The named engines without a segment fence at once, and no other engine does. -/
theorem engineFence_fenced {t : State} {q : Pkt} (hlen : t.engines.length = 8)
    (hidle : ∀ e < 8, bit (q.w 2) e = true → (t.eng e).run = none ∧ (t.eng e).susp = none) {e : Nat} (he : e < 8) :
    ((t.engineFence q).eng e).fenced = ((t.eng e).fenced || bit (q.w 2) e) := by
  unfold State.engineFence
  extract_lets named awake lost fenced all
  have hawake : awake.standing = t.standing := wakeFor_standing t _
  have hquiet : ¬ (named.any fun i => (awake.eng i).run.isSome || (awake.eng i).susp.isSome) = true := by
    simp only [List.any_eq_true, not_exists, not_and]
    intro i hi
    obtain ⟨hlt, hbit⟩ : i < 8 ∧ bit (q.w 2) i = true := by simpa [named] using hi
    obtain ⟨hrun, hsusp⟩ := hidle i hlt hbit
    obtain ⟨hsameRun, hsameSusp⟩ := wakeFor_segs t (q.w 2 % 256) i
    simp [awake, hsameRun, hsameSusp, hrun, hsusp]
  rw [if_neg hquiet]
  have hfenced : (fenced.eng e).fenced = ((awake.eng e).fenced || decide (e ∈ named)) :=
    fenced_foldl_fenceEngine named 2 awake (by rw [length_of_standing hawake]; omega)
  rw [fenced_of_standing (endPkt_standing _ _ _ _ _ _ _), hfenced, fenced_of_standing hawake]
  simp [named, he]

/-- ENGINE_UNFENCE where every self-test passes. -/
theorem engineUnfence_passing (t : State) (q : Pkt) :
    t.engineUnfence 0 q =
      ((List.range 8).foldl (State.returnNamed (q.w 2 % 256)) (t.wakeFor (q.w 2 % 256))).endPkt q.id .ok (q.w 2 % 256) 0 := by
  have hbad : q.w 2 % 256 &&& (0 : BitVec 8).toNat = 0 := Nat.and_zero _
  have hgood : q.w 2 % 256 &&& (255 ^^^ 0) = q.w 2 % 256 :=
    (Nat.and_two_pow_sub_one_eq_mod _ 8).trans (Nat.mod_mod _ _)
  have hnone (i : Nat) : bit 0 i = false := Nat.zero_testBit i
  simp only [State.engineUnfence, hbad, hgood, hnone, Bool.false_eq_true, if_false]
  rfl

theorem engineUnfence_fenced {t : State} {q : Pkt} (hlen : t.engines.length = 8) {e : Nat} (he : e < 8) :
    ((t.engineUnfence 0 q).eng e).fenced = ((t.eng e).fenced && !bit (q.w 2) e) := by
  have hawake := wakeFor_standing t (q.w 2 % 256)
  have hbit : bit (q.w 2 % 256) e = bit (q.w 2) e := by
    simpa [bit, he] using Nat.testBit_mod_two_pow (q.w 2) 8 e
  rw [engineUnfence_passing, fenced_of_standing (endPkt_standing _ _ _ _ _ _ _),
    fenced_foldl_returnNamed _ _ _ (by rw [length_of_standing hawake]; omega), fenced_of_standing hawake, hbit]
  simp [he]

/-- A bank whose bytes are written ends the packet with their count (R185). -/
theorem accRead_body {t u : State} {q : Pkt}
    (hw : t.writeBytes { part := some q.part, pkt := some q.id } (q.a40 4)
      (t.bankBytes (field (q.w 2) 2 0) (field (q.w 2) 9 3) (bit (q.w 2) 10)) = (none, u)) :
    accReadBody.body t q = u.endPkt q.id .ok 8192 0 := by
  simp only [accReadBody, hw]

/-- Settles O25: by what fencing, returning and writing make of the engines' standing. -/
theorem enginesAreFencedAndRead : Obligations.EnginesAreFencedAndRead := by
  unfold Obligations.EnginesAreFencedAndRead
  refine ⟨fun h s t q hh hsized => ⟨?fence, ?unfence⟩, fun h s t u q hh hd => ?read⟩
  case fence =>
    intro hd hidle
    have hfenced := fun e (he : e < 8) => engineFence_fenced (sized_engines hsized) hidle he
    refine ⟨_, onHopper_dispatched hh hd, fun e he hbit => ?_, fun e he hbit => ?_⟩
    · exact (hfenced e he).trans (by rw [hbit, Bool.or_true])
    · exact (hfenced e he).trans (by rw [hbit, Bool.or_false])
  case unfence =>
    intro hd
    exact ⟨_, onHopper_dispatched hh hd, fun e he => engineUnfence_fenced (sized_engines hsized) he⟩
  case read =>
    intro e c b
    refine ⟨bankBytes_length _ _ _ _, bankBytes_of_unmarked, fun hw => ⟨?_, fun i k tail => ?_⟩⟩
    · exact (onHopper_dispatched hh hd).trans (by rw [accRead_body hw])
    · exact bankBytes_of_standing ((standing_of_eq hw).trans (writeBytes_standing _ _ _ _)) i k tail

end Sys2Proof.Machine
end

section
/-!
SUPPORT. Number formats (02): the length of a significand, rounding of a magnitude that already fits its format, the
significand and exponent that a floating-point element stands for.
-/
namespace Sys2Proof.Machine

/-! ### Lengths and exact rounding -/

theorem bitLen_le_iff {m n : Nat} : bitLen m ≤ n ↔ m < 2 ^ n := by
  unfold bitLen
  split
  next h =>
    have hpos := Nat.two_pow_pos n
    omega
  next h => rw [Nat.succ_le_iff, Nat.log2_lt h]

/-- A significand with its leading bit set fills its width. -/
theorem bitLen_two_pow_add {k r : Nat} (hr : r < 2 ^ k) : bitLen (2 ^ k + r) = k + 1 := by
  apply Nat.le_antisymm
  · rw [bitLen_le_iff, Nat.pow_succ]
    omega
  · rw [Nat.succ_le_iff, ← Nat.not_le, bitLen_le_iff]
    omega

/-- A magnitude whose unit is the one it would be rounded to is not rounded, in any mode (R31). -/
theorem quantize_exact (md : Rnd) {p m : Nat} {qmin e : Int} (h : max qmin (e + bitLen m - p) = e) :
    quantize md p qmin m e = (m, e) := by
  simp only [quantize, h, ge_iff_le, Int.le_refl, if_true, Int.sub_self, Int.toNat_zero, Nat.shiftLeft_zero]

/-! ### The fields of a floating-point element (R27) -/

theorem Fmt.prec_pos (f : Fmt) : 0 < f.prec := by cases f <;> decide

theorem Fmt.bits_pos (f : Fmt) : 0 < f.bits := by cases f <;> decide

/-- The significand that the magnitude bits stand for: the fraction alone under an exponent field of zeros, else with the
implicit bit. -/
def Fmt.sig (f : Fmt) (mag : Nat) : Nat :=
  if mag >>> (f.prec - 1) = 0 then mag % 2 ^ (f.prec - 1) else 2 ^ (f.prec - 1) + mag % 2 ^ (f.prec - 1)

/-- The exponent of the significand's unit. -/
def Fmt.unitExp (f : Fmt) (mag : Nat) : Int :=
  if mag >>> (f.prec - 1) = 0 then f.qmin else f.qmin + (mag >>> (f.prec - 1) : Nat) - 1

/-- The magnitude bits are the exponent field above the fraction. -/
theorem Fmt.exponent_fraction (f : Fmt) (mag : Nat) :
    (mag >>> (f.prec - 1)) * 2 ^ (f.prec - 1) + mag % 2 ^ (f.prec - 1) = mag := by
  rw [Nat.shiftRight_eq_div_pow]
  exact Nat.div_add_mod' _ _

/-- A significand and its unit are a rounding's result already. -/
theorem Fmt.quantize_sig (f : Fmt) (md : Rnd) (mag : Nat) :
    quantize md f.prec f.qmin (f.sig mag) (f.unitExp mag) = (f.sig mag, f.unitExp mag) := by
  apply quantize_exact
  have hprec := f.prec_pos
  have hfrac : mag % 2 ^ (f.prec - 1) < 2 ^ (f.prec - 1) := Nat.mod_lt _ (Nat.two_pow_pos _)
  unfold Fmt.sig Fmt.unitExp
  split
  next hsub =>
    have hlen := bitLen_le_iff.mpr hfrac
    omega
  next hnormal =>
    rw [bitLen_two_pow_add hfrac]
    generalize mag >>> (f.prec - 1) = ex at hnormal
    omega

/-- Encoding a significand and its unit gives the magnitude bits back. -/
theorem Fmt.enc_sig (f : Fmt) (mag : Nat) : f.enc (f.sig mag) (f.unitExp mag) = mag := by
  have hfrac : mag % 2 ^ (f.prec - 1) < 2 ^ (f.prec - 1) := Nat.mod_lt _ (Nat.two_pow_pos _)
  have hfields := f.exponent_fraction mag
  unfold Fmt.enc Fmt.sig Fmt.unitExp
  split
  next hsub =>
    rw [hsub] at hfields
    rw [if_pos hfrac]
    omega
  next hnormal =>
    generalize mag >>> (f.prec - 1) = ex at hfields
    have hexp : (f.qmin + ex - 1 - f.qmin + 1).toNat = ex := by omega
    rw [if_neg (Nat.not_lt.mpr (Nat.le_add_right _ _)), hexp, Nat.add_sub_cancel_left, hfields]

theorem Fmt.sig_eq_zero_iff (f : Fmt) (mag : Nat) : f.sig mag = 0 ↔ mag = 0 := by
  have hfields := f.exponent_fraction mag
  have hpos := Nat.two_pow_pos (f.prec - 1)
  unfold Fmt.sig
  split
  next hsub =>
    rw [hsub] at hfields
    omega
  next hnormal =>
    have hne : mag ≠ 0 := by
      rintro rfl
      exact hnormal (Nat.zero_shiftRight _)
    omega

/-- An element's value is made of the significand and the unit of its magnitude bits. -/
theorem Fmt.fin_sig (f : Fmt) (neg : Bool) (mag : Nat) :
    (if mag >>> (f.prec - 1) = 0 then Val.fin neg (mag % 2 ^ (f.prec - 1)) f.qmin
      else .fin neg (2 ^ (f.prec - 1) + mag % 2 ^ (f.prec - 1)) (f.qmin + (mag >>> (f.prec - 1) : Nat) - 1)) =
    .fin neg (f.sig mag) (f.unitExp mag) := by
  unfold Fmt.sig Fmt.unitExp
  split <;> rfl

/-- The encoding of infinity follows that of the greatest finite magnitude (Table FMT-3). -/
theorem Fmt.infEnc_eq {f : Fmt} {ie : Nat} (h : f.infEnc = some ie) : f.maxEnc + 1 = ie := by
  cases f <;> cases h <;> rfl

/-- E4M3 alone has no infinity, and all but the last of its magnitudes are finite. -/
theorem Fmt.maxEnc_without_inf {f : Fmt} (hf : f.isInt = false) (h : f.infEnc = none) :
    f.maxEnc = 0x7E ∧ 2 ^ (f.bits - 1) = 0x80 := by
  cases f with
  | e4m3 => exact ⟨rfl, rfl⟩
  | int8 | int16 => cases hf
  | _ => cases h

theorem Fmt.two_pow_bits (f : Fmt) : 2 ^ f.bits = 2 ^ (f.bits - 1) * 2 := by
  rw [← Nat.pow_succ, Nat.succ_eq_add_one, Nat.sub_add_cancel f.bits_pos]

/-- The sign of an element's bits. -/
def Fmt.signOf (f : Fmt) (b : Nat) : Bool := decide (2 ^ (f.bits - 1) ≤ b)

/-- The bits of an element below its sign. -/
def Fmt.magOf (f : Fmt) (b : Nat) : Nat := b % 2 ^ (f.bits - 1)

/-- The bit that a sign sets. -/
def Fmt.signBit (f : Fmt) (neg : Bool) : Nat := if neg then 2 ^ (f.bits - 1) else 0

theorem Fmt.magOf_lt (f : Fmt) (b : Nat) : f.magOf b < 2 ^ (f.bits - 1) := Nat.mod_lt _ (Nat.two_pow_pos _)

/-- An element is its sign bit above the bits below it. -/
theorem Fmt.signBit_add_magOf {f : Fmt} {b : Nat} (hb : b < 2 ^ f.bits) : f.signBit (f.signOf b) + f.magOf b = b := by
  have hbits := f.two_pow_bits
  simp only [Fmt.signBit, Fmt.signOf, Fmt.magOf, decide_eq_true_eq]
  split
  next hneg =>
    rw [Nat.mod_eq_sub_mod hneg, Nat.mod_eq_of_lt (by omega)]
    omega
  next hpos => rw [Nat.zero_add, Nat.mod_eq_of_lt (by omega)]

end Sys2Proof.Machine
end

section
/-!
SUPPORT. What a read gives for an element that is a number (R27, R28), and what a write makes of it.
-/
namespace Sys2Proof.Machine

/-! ### What a read gives -/

/-- An element of a format with an infinity: the NaNs lie above it (R27). -/
theorem read_with_inf {d : Desc} {b ie : Nat} (hf : d.fmt.isInt = false) (hb : b < 2 ^ d.fmt.bits) (hdaz : d.daz = false)
    (hie : d.fmt.infEnc = some ie) :
    d.read b = if d.fmt.magOf b = ie then .inf (d.fmt.signOf b) else if d.fmt.magOf b > ie then .nan
      else .fin (d.fmt.signOf b) (d.fmt.sig (d.fmt.magOf b)) (d.fmt.unitExp (d.fmt.magOf b)) := by
  rw [← Fmt.fin_sig]
  simp only [Desc.read, hf, hdaz, hie, Nat.mod_eq_of_lt hb, Bool.false_eq_true, if_false]
  rfl

/-- An element of E4M3: its one NaN has the greatest magnitude bits (R27). -/
theorem read_without_inf {d : Desc} {b : Nat} (hf : d.fmt.isInt = false) (hb : b < 2 ^ d.fmt.bits) (hdaz : d.daz = false)
    (hie : d.fmt.infEnc = none) :
    d.read b = if d.fmt.magOf b = 0x7F then .nan
      else .fin (d.fmt.signOf b) (d.fmt.sig (d.fmt.magOf b)) (d.fmt.unitExp (d.fmt.magOf b)) := by
  rw [← Fmt.fin_sig]
  simp only [Desc.read, hf, hdaz, hie, Nat.mod_eq_of_lt hb, Bool.false_eq_true, if_false]
  rfl

/-- A floating-point element that is no NaN is its sign with an infinity or with the significand and unit of its magnitude
bits, which are then at most the greatest finite encoding. -/
theorem read_float {d : Desc} {b : Nat} (hf : d.fmt.isInt = false) (hb : b < 2 ^ d.fmt.bits) (hdaz : d.daz = false)
    (hnan : (d.read b).isNan = false) :
    (d.fmt.infEnc = some (d.fmt.magOf b) ∧ d.read b = .inf (d.fmt.signOf b)) ∨
    (d.fmt.magOf b ≤ d.fmt.maxEnc ∧
      d.read b = .fin (d.fmt.signOf b) (d.fmt.sig (d.fmt.magOf b)) (d.fmt.unitExp (d.fmt.magOf b))) := by
  cases hie : d.fmt.infEnc with
  | some ie =>
    have hmax := Fmt.infEnc_eq hie
    rw [read_with_inf hf hb hdaz hie] at hnan ⊢
    split
    next hinf => exact .inl ⟨by rw [hinf], rfl⟩
    next hne =>
      have hle : ¬ d.fmt.magOf b > ie := fun hgt => by
        simp only [if_neg hne, if_pos hgt, Val.isNan, Bool.true_eq_false] at hnan
      exact .inr ⟨by omega, if_neg hle⟩
  | none =>
    obtain ⟨hmax, hsize⟩ := Fmt.maxEnc_without_inf hf hie
    have hlt := d.fmt.magOf_lt b
    rw [read_without_inf hf hb hdaz hie] at hnan ⊢
    have hne : d.fmt.magOf b ≠ 0x7F := fun h => by simp only [if_pos h, Val.isNan, Bool.true_eq_false] at hnan
    exact .inr ⟨by omega, if_neg hne⟩

/-- An integer element is its two's complement value times 2^SCALE (R28). -/
theorem read_int {d : Desc} {b : Nat} (hf : d.fmt.isInt = true) (hb : b < 2 ^ d.fmt.bits) :
    d.read b = if 2 ^ (d.fmt.bits - 1) ≤ b then .fin true (2 ^ d.fmt.bits - b) d.scale else .fin false b d.scale := by
  simp only [Desc.read, hf, Nat.mod_eq_of_lt hb, ge_iff_le, if_true]

theorem Fmt.maxEnc_int {f : Fmt} (hf : f.isInt = true) : f.maxEnc + 1 = 2 ^ (f.bits - 1) := by
  cases f <;> cases hf <;> rfl

/-! ### What a write gives -/

theorem write_int {d : Desc} (hf : d.fmt.isInt = true) (md : Rnd) (v : Val) : d.write md v = d.writeInt md v := by
  simp only [Desc.write, hf, if_true]

theorem writeInt_nan (d : Desc) (md : Rnd) : d.writeInt md .nan = (0, { nanSeen := true }) := rfl

/-- A floating-point destination takes its canonical NaN whatever OVF_MODE holds (R44). -/
theorem write_nan {d : Desc} (hf : d.fmt.isInt = false) (md : Rnd) :
    d.write md .nan = (d.fmt.nanEnc, { nanSeen := true }) := by
  simp only [Desc.write, hf, Bool.false_eq_true, if_false]

/-- An integer of the format is written in two's complement and without a flag (R28). -/
theorem writeInt_fin {d : Desc} {md : Rnd} {neg : Bool} {k : Nat} (hk : k ≤ d.fmt.maxEnc + if neg then 1 else 0) :
    d.writeInt md (.fin neg k d.scale) = (if neg then (2 ^ d.fmt.bits - k) % 2 ^ d.fmt.bits else k, {}) := by
  cases neg with
  | false =>
    have hin : ¬ k > d.fmt.maxEnc := Nat.not_lt.mpr hk
    simp only [Desc.writeInt, hin, Int.sub_self, ge_iff_le, Int.le_refl, Int.toNat_zero,
      Nat.shiftLeft_zero, Bool.false_eq_true, if_false, if_true]
  | true =>
    have hin : ¬ k > d.fmt.maxEnc + 1 := Nat.not_lt.mpr hk
    simp only [Desc.writeInt, hin, Int.sub_self, ge_iff_le, Int.le_refl, Int.toNat_zero, Nat.shiftLeft_zero, if_false, if_true]

/-- Zero is written as the zero of its sign (R47). -/
theorem write_zero {d : Desc} (hf : d.fmt.isInt = false) (md : Rnd) (neg : Bool) (e : Int) :
    d.write md (.fin neg 0 e) = (d.fmt.signBit neg, {}) := by
  simp only [Desc.write, hf, Fmt.signBit, Bool.false_eq_true, if_false, if_true]

/-- A finite value other than zero whose rounding stays within the format is written with its sign and without a flag. -/
theorem write_fin {d : Desc} {md : Rnd} {neg : Bool} {m k : Nat} {e q : Int} (hf : d.fmt.isInt = false) (hm : m ≠ 0)
    (hftz : d.ftz = false) (hq : quantize md d.fmt.prec d.fmt.qmin m e = (k, q)) (hmax : d.fmt.enc k q ≤ d.fmt.maxEnc) :
    d.write md (.fin neg m e) = (d.fmt.signBit neg + d.fmt.enc k q, {}) := by
  simp only [Desc.write, hf, hm, hq, hftz, gt_iff_lt, Nat.not_lt.mpr hmax, Fmt.signBit, false_and, Bool.false_eq_true, if_false]

/-- Under OVF_MODE INF an infinity is written as the infinity of its sign (R40). -/
theorem write_inf {d : Desc} {ie : Nat} (hie : d.fmt.infEnc = some ie) (hf : d.fmt.isInt = false) (hsat : d.sat = false)
    (md : Rnd) (neg : Bool) :
    d.write md (.inf neg) = (d.fmt.signBit neg + ie, {}) := by
  simp only [Desc.write, hf, hie, hsat, Fmt.signBit, Bool.false_eq_true, if_false]

/-- A magnitude of the format is written as its own bits below its sign (R30). -/
theorem write_sig {d : Desc} {mag : Nat} (hf : d.fmt.isInt = false) (hftz : d.ftz = false) (hmax : mag ≤ d.fmt.maxEnc)
    (md : Rnd) (neg : Bool) :
    d.write md (.fin neg (d.fmt.sig mag) (d.fmt.unitExp mag)) =
      (d.fmt.signBit neg + mag, {}) := by
  by_cases hzero : d.fmt.sig mag = 0
  · rw [hzero, write_zero hf, (d.fmt.sig_eq_zero_iff mag).mp hzero, Nat.add_zero]
  · have henc := d.fmt.enc_sig mag
    rw [write_fin hf hzero hftz (d.fmt.quantize_sig md mag) (henc.symm ▸ hmax), henc]

/-! ### Reading and writing back -/

theorem write_read_int {d : Desc} {b : Nat} (hf : d.fmt.isInt = true) (hb : b < 2 ^ d.fmt.bits) (md : Rnd) :
    d.write md (d.read b) = (b, {}) := by
  have htop := Fmt.maxEnc_int hf
  have hbits := d.fmt.two_pow_bits
  rw [write_int hf, read_int hf hb]
  split
  next hneg =>
    rw [writeInt_fin (by simp only [if_true]; omega), if_pos rfl, Nat.sub_sub_self (Nat.le_of_lt hb), Nat.mod_eq_of_lt hb]
  next hpos =>
    rw [writeInt_fin (by omega), if_neg Bool.false_ne_true]

theorem write_read_float {d : Desc} {b : Nat} (hf : d.fmt.isInt = false) (hb : b < 2 ^ d.fmt.bits) (hdaz : d.daz = false)
    (hftz : d.ftz = false) (hnan : (d.read b).isNan = false) (hinf : (d.read b).isInf = false ∨ d.sat = false) (md : Rnd) :
    d.write md (d.read b) = (b, {}) := by
  obtain ⟨hie, hread⟩ | ⟨hmax, hread⟩ := read_float hf hb hdaz hnan
  · have hsat : d.sat = false := by simpa [hread, Val.isInf] using hinf
    rw [hread, write_inf hie hf hsat, Fmt.signBit_add_magOf hb]
  · rw [hread, write_sig hf hftz hmax, Fmt.signBit_add_magOf hb]

end Sys2Proof.Machine
end

section
/-!
SUPPORT. Numbers written back, NaN and saturation (R30, R41, R46).
-/
namespace Sys2Proof.Machine

/-- Settles O58: an integer by its two's complement, a floating-point number because its significand and unit are a
rounding's result already and encode to its own bits. -/
theorem readsWriteBack : Obligations.ReadsWriteBack := by
  unfold Obligations.ReadsWriteBack
  intro d md b hb hdaz hftz hnan hinf
  cases hf : d.fmt.isInt with
  | true => exact write_read_int hf hb md
  | false => exact write_read_float hf hb hdaz hftz hnan hinf md

/-- Settles O56: a NaN is written as the canonical encoding of E4M3, and as 0 with NAN_SEEN by the integer formats. -/
theorem nanConversions : Obligations.NanConversions := by
  unfold Obligations.NanConversions
  intro d md
  refine ⟨fun he4m3 => ?_, fun hint => ?_⟩
  · rw [write_nan (by rw [he4m3]; rfl), he4m3]
    rfl
  · have hf : d.fmt.isInt = true := by obtain h | h := hint <;> rw [h] <;> rfl
    rw [write_int hf, writeInt_nan]
    exact ⟨rfl, rfl⟩

theorem satEnc_e4m3 (neg : Bool) : Fmt.e4m3.satEnc neg = (if neg then 0xFE else 0x7E, { sat := true }) := by
  cases neg <;> rfl

/-- An overflowing value of a format without an infinity is written as the largest finite one, under every OVF_MODE and
rounding mode (R41). -/
theorem write_of_overflows {d : Desc} {md : Rnd} {v : Val} (hf : d.fmt.isInt = false) (hie : d.fmt.infEnc = none)
    (hover : d.overflows md v = true) : d.write md v = d.fmt.satEnc v.isNeg := by
  cases v with
  | nan => cases hover
  | inf neg => cases hover
  | fin neg m e =>
    simp only [Desc.overflows] at hover
    split at hover
    next => cases hover
    next hm => simp only [Desc.write, hf, hm, hie, of_decide_eq_true hover, Val.isNeg, Bool.false_eq_true, if_false, if_true]

/-- An infinity in a format without one is written as the largest finite value (R41). -/
theorem write_of_isInf {d : Desc} {v : Val} (hf : d.fmt.isInt = false) (hie : d.fmt.infEnc = none) (hinf : v.isInf = true)
    (md : Rnd) : d.write md v = d.fmt.satEnc v.isNeg := by
  cases v with
  | inf neg => simp only [Desc.write, hf, hie, Val.isNeg, Bool.false_eq_true, if_false]
  | nan => cases hinf
  | fin neg m e => cases hinf

/-- Settles O57: E4M3 has no infinity, so both an infinity and an overflow go to its largest finite value. -/
theorem e4m3Saturates : Obligations.E4m3Saturates := by
  unfold Obligations.E4m3Saturates
  intro d md v he4m3 hv
  have hf : d.fmt.isInt = false := by rw [he4m3]; rfl
  have hie : d.fmt.infEnc = none := by rw [he4m3]; rfl
  have hsat : d.write md v = d.fmt.satEnc v.isNeg := hv.elim (write_of_isInf hf hie · md) (write_of_overflows hf hie)
  rw [hsat, he4m3, satEnc_e4m3]

end Sys2Proof.Machine
end

section
/-!
SUPPORT. The order of ranked candidates (R152, R153): values that are whole multiples of one unit have a place in a linear
order, NaN included, and any three values have such a unit in common.
-/
namespace Sys2Proof.Machine

/-! ### A value's place -/

/-- The exponent of the unit that a finite value is counted in. -/
def Val.unit : Val → Int
  | .fin _ _ e => e
  | _ => 0

/-- A value's place among the multiples of 2^low: its class (-Infinity, finite, +Infinity, NaN, R153), and how many units a
finite value holds. -/
def Val.place (low : Int) : Val → Int × Int
  | .nan => (2, 0)
  | .inf neg => (if neg then -1 else 1, 0)
  | .fin neg m e => (0, Val.scaled neg m e low)

theorem place_nan (low : Int) : Val.nan.place low = (2, 0) := rfl

theorem place_inf (low : Int) (neg : Bool) : (Val.inf neg).place low = (if neg then -1 else 1, 0) := rfl

theorem place_fin (low : Int) (neg : Bool) (m : Nat) (e : Int) :
    (Val.fin neg m e).place low = (0, Val.scaled neg m e low) := rfl

/-- A place is below another by its class, and within the finite values by the count of units. -/
def Below (p q : Int × Int) : Prop := p.1 < q.1 ∨ (p.1 = q.1 ∧ p.2 < q.2)

/-- In a finer unit a value counts more of them, by the ratio of the units. -/
theorem scaled_finer {low mid e : Int} (hlow : low ≤ mid) (hmid : mid ≤ e) (neg : Bool) (m : Nat) :
    Val.scaled neg m e low = Val.scaled neg m e mid * 2 ^ (mid - low).toNat := by
  have hshift : (e - low).toNat = (e - mid).toNat + (mid - low).toNat := by omega
  unfold Val.scaled
  rw [hshift, Nat.shiftLeft_add, Nat.shiftLeft_eq (m <<< (e - mid).toNat)]
  cases neg with
  | false => simp only [Bool.false_eq_true, if_false, Int.natCast_mul, Int.natCast_pow, Int.cast_ofNat_Int]
  | true => simp only [if_true, Int.natCast_mul, Int.natCast_pow, Int.cast_ofNat_Int, Int.neg_mul]

/-- Finite values compare as their counts of any unit that both are multiples of. -/
theorem lt_fin_iff {low ea eb : Int} {na nb : Bool} {ma mb : Nat} (ha : low ≤ ea) (hb : low ≤ eb) :
    (Val.fin na ma ea).lt (.fin nb mb eb) = true ↔ Val.scaled na ma ea low < Val.scaled nb mb eb low := by
  have hlow : low ≤ min ea eb := Int.le_min.mpr ⟨ha, hb⟩
  have hratio : (0 : Int) < 2 ^ (min ea eb - low).toNat := Int.pow_pos (by decide)
  rw [scaled_finer hlow (Int.min_le_left ea eb), scaled_finer hlow (Int.min_le_right ea eb), Int.mul_lt_mul_right hratio]
  exact decide_eq_true_iff

/-- The order on numbers is that of their places. -/
theorem lt_iff_below {low : Int} {x y : Val} (hx : x.isNan = false) (hy : y.isNan = false) (hlx : low ≤ x.unit)
    (hly : low ≤ y.unit) : x.lt y = true ↔ Below (x.place low) (y.place low) := by
  cases x with
  | nan => cases hx
  | inf a =>
    cases y with
    | nan => cases hy
    | inf b => cases a <;> cases b <;> simp [Val.lt, place_inf, Below]
    | fin nb mb eb => cases a <;> simp [Val.lt, place_inf, place_fin, Below]
  | fin na ma ea =>
    cases y with
    | nan => cases hy
    | inf b => cases b <;> simp [Val.lt, place_inf, place_fin, Below]
    | fin nb mb eb =>
      simp only [place_fin, Below, Int.lt_irrefl, false_or, true_and]
      exact lt_fin_iff hlx hly

theorem eq_nan_of_isNan {x : Val} (hx : x.isNan = true) : x = .nan := by
  cases x with
  | nan => rfl
  | inf neg => cases hx
  | fin neg m e => cases hx

/-- Every number's class is below a NaN's. -/
theorem place_class_lt_two {x : Val} (hx : x.isNan = false) (low : Int) : (x.place low).1 < 2 := by
  cases x with
  | nan => cases hx
  | inf neg => cases neg <;> simp [place_inf]
  | fin neg m e => simp [place_fin]

/-! ### What ranks above what -/

theorem gtRank_numbers {a b : BitVec 32} (ha : (f32val a).isNan = false) (hb : (f32val b).isNan = false) :
    gtRank a b = (f32val b).lt (f32val a) := by
  simp only [gtRank, ha, hb, Bool.false_eq_true, if_false]

theorem gtRank_nan_left {a : BitVec 32} (ha : (f32val a).isNan = true) (b : BitVec 32) :
    gtRank a b = !(f32val b).isNan := by
  simp only [gtRank, ha, if_true]

theorem gtRank_nan_right {a b : BitVec 32} (ha : (f32val a).isNan = false) (hb : (f32val b).isNan = true) :
    gtRank a b = false := by
  simp only [gtRank, ha, hb, Bool.false_eq_true, if_false, if_true]

/-- A word is greater than another exactly when the other's place is below its own. -/
theorem gtRank_iff_below {low : Int} {a b : BitVec 32} (ha : low ≤ (f32val a).unit) (hb : low ≤ (f32val b).unit) :
    gtRank a b = true ↔ Below ((f32val b).place low) ((f32val a).place low) := by
  cases hna : (f32val a).isNan with
  | false =>
    cases hnb : (f32val b).isNan with
    | false => rw [gtRank_numbers hna hnb, lt_iff_below hnb hna hb ha]
    | true =>
      have hclass := place_class_lt_two hna low
      have hnot : ¬ Below (Val.nan.place low) ((f32val a).place low) := by
        simp only [Below, place_nan]
        omega
      rw [gtRank_nan_right hna hnb, eq_nan_of_isNan hnb]
      exact iff_of_false Bool.false_ne_true hnot
  | true =>
    rw [gtRank_nan_left hna, eq_nan_of_isNan hna]
    cases hnb : (f32val b).isNan with
    | false => exact iff_of_true rfl (.inl (place_class_lt_two hnb low))
    | true =>
      rw [eq_nan_of_isNan hnb]
      exact iff_of_false Bool.false_ne_true (by simp only [Below, Int.lt_irrefl, and_false, or_false, not_false_eq_true])

/-- Under DIR 0 the greater word ranks first, and the lower index where neither is greater (R152). -/
theorem before_dir0_iff (a b : Rank) :
    a.before false b = true ↔ gtRank a.v b.v = true ∨ (¬ gtRank b.v a.v = true ∧ a.idx < b.idx) := by
  simp only [Rank.before, Bool.false_eq_true, if_false, Bool.or_eq_true, Bool.and_eq_true, Bool.not_eq_true', decide_eq_true_eq,
    Bool.not_eq_true]

/-- Under DIR 1 the smaller word ranks first, and the lower index where neither is smaller (R152). -/
theorem before_dir1_iff (a b : Rank) :
    a.before true b = true ↔ gtRank b.v a.v = true ∨ (¬ gtRank a.v b.v = true ∧ a.idx < b.idx) := by
  simp only [Rank.before, if_true, Bool.or_eq_true, Bool.and_eq_true, Bool.not_eq_true', decide_eq_true_eq, Bool.not_eq_true]

/-! ### The strict total order -/

/-- Any three words have a unit that their values are multiples of. -/
theorem exists_common_unit (a b c : BitVec 32) :
    ∃ low, low ≤ (f32val a).unit ∧ low ≤ (f32val b).unit ∧ low ≤ (f32val c).unit :=
  ⟨min (f32val a).unit (min (f32val b).unit (f32val c).unit), by omega, by omega, by omega⟩

/-- Candidates stand in the lexicographic order of place and index, the place descending under DIR 0: it is strict,
transitive, and total on different indices. -/
theorem before_strictTotal (dir : Bool) (a b c : Rank) : a.before dir a = false ∧
    (a.before dir b = true → b.before dir c = true → a.before dir c = true) ∧
    (a.idx ≠ b.idx → a.before dir b = true ∨ b.before dir a = true) := by
  obtain ⟨low, ha, hb, hc⟩ := exists_common_unit a.v b.v c.v
  rw [← Bool.not_eq_true]
  cases dir with
  | false =>
    simp only [before_dir0_iff, gtRank_iff_below ha ha, gtRank_iff_below ha hb, gtRank_iff_below hb ha, gtRank_iff_below hb hc,
      gtRank_iff_below hc hb, gtRank_iff_below ha hc, gtRank_iff_below hc ha, Below]
    omega
  | true =>
    simp only [before_dir1_iff, gtRank_iff_below ha ha, gtRank_iff_below ha hb, gtRank_iff_below hb ha, gtRank_iff_below hb hc,
      gtRank_iff_below hc hb, gtRank_iff_below ha hc, gtRank_iff_below hc ha, Below]
    omega

/-- Settles O59: ranking is the lexicographic order of a value's place, descending under DIR 0, and the index; between
numbers the place follows the order on numbers, and a NaN's is the highest. -/
theorem rankingIsATotalOrder : Obligations.RankingIsATotalOrder := by
  unfold Obligations.RankingIsATotalOrder
  refine ⟨before_strictTotal, ?numbers, ?nan⟩
  case numbers =>
    intro dir a b ha hb
    cases dir with
    | false =>
      rw [before_dir0_iff, gtRank_numbers ha hb, gtRank_numbers hb ha, Bool.not_eq_true]
      cases (f32val b.v).lt (f32val a.v) <;> simp
    | true =>
      rw [before_dir1_iff, gtRank_numbers hb ha, gtRank_numbers ha hb, Bool.not_eq_true]
      cases (f32val a.v).lt (f32val b.v) <;> simp
  case nan =>
    intro a b ha hb
    have hgt : gtRank a.v b.v = true := by rw [gtRank_nan_left ha, hb]; rfl
    exact ⟨(before_dir0_iff a b).mpr (.inl hgt), (before_dir1_iff b a).mpr (.inl hgt)⟩

end Sys2Proof.Machine
end

section
/-!
SUPPORT. The packets in flight: what stays of them as their state changes, how one ends, and the path of a packet to its body.
-/
namespace Sys2Proof.Machine

/-! ### Look-ups by packet number -/

/-- What the host asked with a packet: its number and its dwords. -/
def Pkt.request (p : Pkt) : Nat × List (BitVec 32) := (p.id, p.dw)

def State.requests (s : State) : List (Nat × List (BitVec 32)) := s.pkts.map Pkt.request

theorem pkt_id {s : State} {i : Nat} {p : Pkt} (h : s.pkt i = some p) : p.id = i := by
  simpa using List.find?_some h

theorem pkt_request (s : State) (i : Nat) : (s.pkt i).map Pkt.request = s.requests.find? fun a => a.1 = i :=
  (List.find?_map (p := fun a : Nat × List (BitVec 32) => a.1 = i) (f := Pkt.request) (l := s.pkts)).symm

/-- A packet is still in flight, with the same opcode, where every packet kept its number and its dwords. -/
theorem pkt_of_requests {s t : State} (h : t.requests = s.requests) {i : Nat} {p : Pkt} (hp : s.pkt i = some p) :
    ∃ p', t.pkt i = some p' ∧ p'.op = p.op := by
  have hsame : (t.pkt i).map Pkt.request = some p.request := by rw [pkt_request, h, ← pkt_request, hp]; rfl
  obtain ⟨p', hp', heq⟩ := Option.map_eq_some_iff.mp hsame
  have hdw : p'.dw = p.dw := congrArg Prod.snd heq
  exact ⟨p', hp', by simp [Pkt.op, Pkt.w, hdw]⟩

theorem modPkt_requests (s : State) (i : Nat) {f : Pkt → Pkt} (hf : ∀ p, (f p).request = p.request) :
    (s.modPkt i f).requests = s.requests := by
  simp only [State.requests, State.modPkt_pkts, List.map_map]
  refine List.map_congr_left fun p _ => ?_
  by_cases hi : p.id = i <;> simp [hi, hf]

/-- A packet changed in a way that keeps its number is found changed. -/
theorem pkt_modPkt {s : State} {i : Nat} {p : Pkt} (hp : s.pkt i = some p) {f : Pkt → Pkt} (hf : ∀ p, (f p).id = p.id) :
    (s.modPkt i f).pkt i = some (f p) := by
  rw [pkt_modPkt_same s f hf, hp]; rfl

/-! ### The end of a packet (03 R63) -/

theorem foldl_pkts {α : Type} {f : State → α → State} (hf : ∀ s x, (f s x).pkts = s.pkts) (l : List α) (s : State) :
    (l.foldl f s).pkts = s.pkts :=
  List.foldlRecOn (motive := fun t => t.pkts = s.pkts) l f rfl fun t ht x _ => (hf t x).trans ht

theorem freeRecord_pkts (s : State) (c : Ctx) : (s.freeRecord c).pkts = s.pkts := by
  unfold State.freeRecord
  split
  · rfl
  · exact foldl_pkts (fun s r => by split <;> rfl) _ _

theorem freeCtx_pkts (s : State) (h : Nat) : (s.freeCtx h).pkts = s.pkts := by
  unfold State.freeCtx
  split
  · exact freeRecord_pkts s _
  · rfl

theorem freeAll_pkts (s : State) (h : Nat) : (s.freeAll h).pkts = s.pkts :=
  (freeCtx_pkts _ _).trans (foldl_pkts freeCtx_pkts _ s)

theorem closeFailed_pkts (s : State) (p : Pkt) (st : Status) : (s.closeFailed p st).pkts = s.pkts := by
  unfold State.closeFailed
  split
  · rfl
  split
  · split
    · split
      · exact freeAll_pkts s _
      · rfl
    · rfl
  split <;> rfl

/-- Packet r has ended with status st and results r0, r1; OK stands for OK_FLAGS too. -/
structure Pkt.Ended (r : Pkt) (st : Status) (r0 r1 : Nat) : Prop where
  stage : r.stage = .ended
  status : r.status = st ∨ st = .ok ∧ r.status = .okFlags
  r0 : r.r0 = BitVec.ofNat 64 r0
  r1 : r.r1 = BitVec.ofNat 64 r1

theorem Pkt.Ended.status_of_ne_ok {r : Pkt} {st : Status} {r0 r1 : Nat} (h : r.Ended st r0 r1) (hst : st ≠ .ok) :
    r.status = st := by
  obtain hs | ⟨hok, -⟩ := h.status
  · exact hs
  · exact absurd hok hst

/-- The end of a packet changes that packet alone, and ends it. -/
theorem endPkt_pkts (s : State) (i : Nat) (st : Status) (r0 r1 : Nat) (fl : Flags) (c : Nat) :
    ∃ f : Pkt → Pkt, (∀ p, (f p).id = p.id ∧ (f p).Ended st r0 r1) ∧ (s.endPkt i st r0 r1 fl c).pkts = (s.modPkt i f).pkts := by
  unfold State.endPkt
  extract_lets before marked closed forgotten mine freed
  have hmarked : ∃ f : Pkt → Pkt, (∀ p, (f p).id = p.id ∧ (f p).Ended st r0 r1) ∧ marked = s.modPkt i f := by
    refine ⟨_, fun p => ?_, rfl⟩
    refine ⟨rfl, rfl, ?_, rfl, rfl⟩
    dsimp only
    split <;> simp_all
  have hclosed : closed.pkts = marked.pkts := by
    unfold closed before
    cases s.pkt i with
    | none => rfl
    | some p => exact closeFailed_pkts marked p st
  have hfreed : freed.pkts = marked.pkts := (foldl_pkts freeCtx_pkts mine forgotten).trans hclosed
  obtain ⟨f, hf, hchange⟩ := hmarked
  refine ⟨f, hf, ?_⟩
  rw [← hchange]
  split
  · rfl
  · exact hfreed

/-- A packet in flight that ends is found ended. -/
theorem pkt_endPkt {s : State} {i : Nat} {p : Pkt} (hp : s.pkt i = some p) (st : Status) (r0 r1 : Nat) (fl : Flags) (c : Nat) :
    ∃ r, (s.endPkt i st r0 r1 fl c).pkt i = some r ∧ r.Ended st r0 r1 := by
  obtain ⟨f, hf, hpkts⟩ := endPkt_pkts s i st r0 r1 fl c
  refine ⟨f p, ?_, (hf p).2⟩
  rw [State.pkt, hpkts]
  exact pkt_modPkt hp fun p => (hf p).1

/-- A packet that is no feed and fails just ends. -/
theorem compFail_eq_endPkt {s : State} {i : Nat} {p : Pkt} (hp : s.pkt i = some p) (hop : p.op ≠ opCTX_FEED) (st : Status)
    (r0 : Nat) : ∃ r1, s.compFail i st r0 = s.endPkt i st r0 r1 := by
  unfold State.compFail
  simp only [hp, if_neg hop]
  exact ⟨_, rfl⟩

/-! ### The path of a packet -/

/-- A dispatched packet is the Hopper's front packet as decoding left it, in a state w, with its dispatch taken. -/
theorem dispatched_inv {h : Nat} {s t : State} {o : OpBody} {q : Pkt} (hd : s.dispatched h o = some (q, t)) :
    ∃ p w q', s.pkt p.id = some p ∧ o.sel p = true ∧ (∃ x, w = o.atDecode (s.decoded p) x) ∧ w.pkt p.id = some q' ∧
      t = w.taken q' ∧ q = (t.pkt q'.id).getD q' := by
  unfold State.dispatched at hd
  split at hd
  · cases hd
  · dsimp only at hd
    split at hd
    next p _ hc =>
      simp only [Bool.and_eq_true, decide_eq_true_eq] at hc
      obtain ⟨⟨⟨⟨⟨-, hp⟩, hsel⟩, -⟩, -⟩, -⟩ := hc
      split at hd
      · cases hd
      next q' hq' =>
        split at hd
        · injection hd with hd
          injection hd with hq ht
          exact ⟨p, _, q', hp, hsel, ⟨_, rfl⟩, hq', ht.symm, ht ▸ hq.symm⟩
        · cases hd
    · cases hd

theorem pkt_taken {s : State} {i : Nat} {p : Pkt} (hp : s.pkt i = some p) :
    ∃ p', (s.taken p).pkt i = some p' ∧ p'.request = p.request ∧ p'.stage = .running := by
  obtain rfl := pkt_id hp
  exact ⟨_, pkt_modPkt hp fun _ => rfl, rfl, rfl⟩

/-- A dispatched packet is in flight. -/
theorem dispatched_pkt {h : Nat} {s t : State} {o : OpBody} {q : Pkt} (hd : s.dispatched h o = some (q, t)) :
    t.pkt q.id = some q := by
  obtain ⟨p, w, q', -, -, -, hq', rfl, rfl⟩ := dispatched_inv hd
  obtain ⟨r, hr, hreq, -⟩ := pkt_taken (pkt_id hq' ▸ hq')
  have hid : r.id = q'.id := congrArg Prod.fst hreq
  rw [hr, Option.getD_some, hid, hr]

/-- A dispatched packet has its body's opcode, where the opcode's decoding changes no packet's dwords. -/
theorem dispatched_op {h op : Nat} {s t : State} {o : OpBody} {q : Pkt} (hsel : o.sel = selOp op)
    (hdec : ∀ s p, (o.atDecode s p).requests = s.requests) (hd : s.dispatched h o = some (q, t)) : q.op = op := by
  obtain ⟨p, w, q', hp, hop, ⟨x, rfl⟩, hq', rfl, rfl⟩ := dispatched_inv hd
  obtain ⟨r, hr, hreq, -⟩ := pkt_taken (pkt_id hq' ▸ hq')
  have hdw : r.dw = q'.dw := congrArg Prod.snd hreq
  have hdecoded : (o.atDecode (s.decoded p) x).requests = s.requests := (hdec _ _).trans (modPkt_requests s p.id fun _ => rfl)
  obtain ⟨q'', hq'', hsame⟩ := pkt_of_requests hdecoded hp
  obtain rfl := Option.some.inj (hq'.symm.trans hq'')
  rw [hr, Option.getD_some]
  calc r.op = q'.op := by simp [Pkt.op, Pkt.w, hdw]
    _ = p.op := hsame
    _ = op := by simpa [hsel, selOp] using hop

end Sys2Proof.Machine
end

section
/-!
SUPPORT. What the sending of messages and an access to memory leave alone.
-/
namespace Sys2Proof.Machine

/-! ### Messages (10 R270 to R279) -/

/-- What the sending of messages can touch: the ports, and what the device has sent. -/
def SendsOnly (s t : State) : Prop := t = { s with ports := t.ports, out := t.out }

theorem SendsOnly.refl (s : State) : SendsOnly s s := rfl

theorem SendsOnly.trans {s t u : State} (h : SendsOnly s t) (k : SendsOnly t u) : SendsOnly s u := by
  unfold SendsOnly at *
  rw [k, h]

theorem SendsOnly.foldl {α : Type} {f : State → α → State} (hf : ∀ s x, SendsOnly s (f s x)) (l : List α) (s : State) :
    SendsOnly s (l.foldl f s) :=
  List.foldlRecOn (motive := SendsOnly s) l f (.refl s) fun t ht x _ => ht.trans (hf t x)

theorem pump_sendsOnly (s : State) (p : Nat) : SendsOnly s (s.pump p) := by
  unfold State.pump
  split
  · exact .refl s
  · extract_lets w bulk turn order taken
    refine SendsOnly.trans (t := taken) rfl ((SendsOnly.foldl (fun s x => ?_) order taken).trans rfl)
    split <;> rfl

theorem sendPort_sendsOnly (s : State) (p : Nat) (m : Msg) : SendsOnly s (s.sendPort p m) := by
  unfold State.sendPort
  split
  · exact .refl s
  · exact SendsOnly.trans (t := s.modPort p _) rfl (pump_sendsOnly _ p)

theorem send_sendsOnly (s : State) (vc x : Nat) (name : String) (args : List Nat) (bytes : List (BitVec 8)) :
    SendsOnly s (s.send vc x name args bytes) := by
  unfold State.send
  split
  · exact sendPort_sendsOnly s _ _
  · exact .refl s

theorem sendTwin_sendsOnly (s : State) (vc : Nat) (name : String) (args : List Nat) (bytes : List (BitVec 8)) :
    SendsOnly s (s.sendTwin vc name args bytes) := by
  unfold State.sendTwin
  split
  · exact send_sendsOnly s _ _ _ _ _
  · exact sendPort_sendsOnly s _ _

theorem sendAll_sendsOnly (s : State) (vc : Nat) (xs : List Nat) (name : String) (args : List Nat) (bytes : List (BitVec 8)) :
    SendsOnly s (s.sendAll vc xs name args bytes) :=
  SendsOnly.foldl (fun s x => send_sendsOnly s vc x name args bytes) _ s

theorem sendOwed_sendsOnly (s : State) : SendsOnly s s.sendOwed :=
  SendsOnly.foldl (fun s _ => sendTwin_sendsOnly s 0 "LOG" _ _) _ s

/-- A LOG is sent, kept as the last one, and owed until it is answered unless it is PROVISIONAL (09 R256). -/
theorem sendLog_frame (s : State) (token step : BitVec 64) (st : LogState) :
    s.sendLog token step st = { s with
      ports := (s.sendLog token step st).ports, out := (s.sendLog token step st).out,
      train := { s.train with
        lastLog := some st
        owed := if st = .provisional then s.train.owed else s.train.owed ++ [(token, step, st)] } } := by
  have hsent : SendsOnly s ((s.train.owed ++ [(token, step, st)]).foldl
      (fun s x => s.sendTwin 0 "LOG" [x.1.toNat, x.2.1.toNat, logCode x.2.2]) s) :=
    SendsOnly.foldl (fun s _ => sendTwin_sendsOnly s 0 "LOG" _ _) _ s
  exact congrArg (fun u : State => { u with train := { u.train with
    lastLog := some st
    owed := if st = LogState.provisional then u.train.owed else u.train.owed ++ [(token, step, st)] } }) hsent

/-! ### Accesses to memory (08) -/

/-- What an access to memory can touch: caches, DRAM, the Fallow window, the counts of partitions and windows, free values, and
of a packet anything but its number and dwords. -/
structure AccessOnly (s t : State) : Prop where
  frame : t = { s with pkts := t.pkts, engines := t.engines, parts := t.parts, mem := t.mem, wins := t.wins,
                       fallow := t.fallow, free := t.free }
  requests : t.requests = s.requests

theorem AccessOnly.refl (s : State) : AccessOnly s s := ⟨rfl, rfl⟩

theorem AccessOnly.trans {s t u : State} (h : AccessOnly s t) (k : AccessOnly t u) : AccessOnly s u where
  frame := by rw [k.frame, h.frame]
  requests := k.requests.trans h.requests

theorem AccessOnly.foldl {α : Type} {f : State → α → State} (hf : ∀ s x, AccessOnly s (f s x)) (l : List α) (s : State) :
    AccessOnly s (l.foldl f s) :=
  List.foldlRecOn (motive := AccessOnly s) l f (.refl s) fun t ht x _ => ht.trans (hf t x)

/-- The frame of an operation that answers a value and a state. -/
theorem AccessOnly.of_eq {α : Type} {s t : State} {x : α × State} {a : α} (heq : x = (a, t)) (h : AccessOnly s x.2) :
    AccessOnly s t := by
  rwa [heq] at h

theorem AccessOnly.of_eq₂ {α β : Type} {s t : State} {x : α × β × State} {a : α} {b : β} (heq : x = (a, b, t))
    (h : AccessOnly s x.2.2) : AccessOnly s t := by
  rwa [heq] at h

/-- A change of memory, engines or partitions alone. -/
theorem modMem_accessOnly (s : State) (f : Mem → Mem) : AccessOnly s (s.modMem f) := ⟨rfl, rfl⟩
theorem modEng_accessOnly (s : State) (e : Nat) (f : Engine → Engine) : AccessOnly s (s.modEng e f) := ⟨rfl, rfl⟩
theorem modPart_accessOnly (s : State) (p : Nat) (f : Part → Part) : AccessOnly s (s.modPart p f) := ⟨rfl, rfl⟩
theorem wakeStack_accessOnly (s : State) (loc : Nat) : AccessOnly s (s.wakeStack loc) := ⟨rfl, rfl⟩
theorem modLine_accessOnly (s : State) (line : Nat) (f : L2Line → L2Line) : AccessOnly s (s.modLine line f) := ⟨rfl, rfl⟩
theorem hitLine_accessOnly (s : State) (line : Nat) : AccessOnly s (s.hitLine line) := ⟨rfl, rfl⟩
theorem toDram_accessOnly (s : State) (loc sa : Nat) (d : Sector) (poison : Bool) : AccessOnly s (s.toDram loc sa d poison) :=
  ⟨rfl, rfl⟩
theorem settleLine_accessOnly (s : State) (e line : Nat) : AccessOnly s (s.settleLine e line) := ⟨rfl, rfl⟩
theorem draw_accessOnly (s : State) : AccessOnly s s.draw := ⟨rfl, rfl⟩

theorem modPkt_accessOnly (s : State) (i : Nat) {f : Pkt → Pkt} (hf : ∀ p, (f p).request = p.request) :
    AccessOnly s (s.modPkt i f) := ⟨rfl, modPkt_requests s i hf⟩

theorem cleanLine_accessOnly (s : State) (l : L2Line) : AccessOnly s (s.cleanLine l) := by
  unfold State.cleanLine
  refine AccessOnly.trans (AccessOnly.foldl (fun s i => ?_) _ s) (modMem_accessOnly _ _)
  dsimp only
  split
  · exact modMem_accessOnly s _
  · exact .refl s

theorem evictLine_accessOnly (s : State) (l : L2Line) : AccessOnly s (s.evictLine l) :=
  (cleanLine_accessOnly s l).trans ⟨rfl, rfl⟩

theorem allocLine_accessOnly (s : State) (src : Src) (line addr : Nat) : AccessOnly s (s.allocLine src line addr) := by
  unfold State.allocLine
  extract_lets owner
  split
  extract_lets evicted counted
  have hevicted : AccessOnly s evicted := by
    unfold evicted
    split
    · exact evictLine_accessOnly s _
    · exact .refl s
  have hcounted : AccessOnly evicted counted := by
    unfold counted
    split
    · exact ⟨rfl, rfl⟩
    · exact .refl _
  exact hevicted.trans (hcounted.trans (modMem_accessOnly _ _))

theorem enterLine_accessOnly (s : State) (src : Src) (line addr : Nat) : AccessOnly s (s.enterLine src line addr) := by
  unfold State.enterLine
  split
  · split
    · exact .refl s
    · exact modMem_accessOnly s _
  · exact allocLine_accessOnly s src line addr

theorem monitor_accessOnly (s : State) (src : Src) (sa : Nat) (miss : Bool) : AccessOnly s (s.monitor src sa miss) := by
  unfold State.monitor
  split
  · exact .refl s
  · extract_lets pers
    split
    · exact .refl s
    · exact modPart_accessOnly s _ _

theorem countDup_accessOnly (s : State) (src : Src) : AccessOnly s (s.countDup src) := by
  unfold State.countDup
  extract_lets counted
  have hcounted : AccessOnly s counted := by
    unfold counted
    split
    · exact modPart_accessOnly s _ _
    · exact .refl s
  split
  · exact hcounted.trans (modPkt_accessOnly _ _ fun _ => rfl)
  · exact hcounted

theorem fillSector_accessOnly (s : State) (who loc : Nat) (d : Sector) (poison : Bool) :
    AccessOnly s (s.fillSector who loc d poison) := ⟨rfl, rfl⟩

theorem returnTo_accessOnly (s : State) (src : Src) (loc sa : Nat) : AccessOnly s (s.returnTo src loc sa) := by
  unfold State.returnTo
  split
  extract_lets fill
  have hfill : AccessOnly s (fill s) := (enterLine_accessOnly _ _ _ _).trans (fillSector_accessOnly _ _ _ _ _)
  split
  · exact hfill
  · extract_lets x
    split
    · exact hfill
    · split
      · exact .refl s
      · exact fillSector_accessOnly _ _ _ _ _

theorem l2Read_accessOnly (s : State) (src : Src) (sa : Nat) : AccessOnly s (s.l2Read src sa).2.2 := by
  unfold State.l2Read
  extract_lets loc x returned missed
  have hmissed : AccessOnly s missed := (monitor_accessOnly s src sa true).trans (wakeStack_accessOnly _ _)
  split
  · split
    · refine AccessOnly.trans ?_ (returnTo_accessOnly _ src loc sa)
      exact hmissed.trans ((countDup_accessOnly _ src).trans (draw_accessOnly _))
    · exact (monitor_accessOnly s src sa false).trans (hitLine_accessOnly _ _)
  · split
    split
    · exact hmissed
    · exact hmissed.trans ((enterLine_accessOnly _ _ _ _).trans (fillSector_accessOnly _ _ _ _ _))

theorem readSector_accessOnly (s : State) (src : Src) (a sa : Nat) : AccessOnly s (s.readSector src a sa).2.2 := by
  unfold State.readSector
  split
  next e p _ _ =>
    split
    · extract_lets loc line i held
      split
      · exact modEng_accessOnly s e _
      · split
        · exact .refl s
        · have hread := l2Read_accessOnly s src sa
          split
          next heq =>
          replace hread := hread.of_eq₂ heq
          split
          · exact hread
          · exact hread.trans ((settleLine_accessOnly _ e _).trans ((modLine_accessOnly _ _ _).trans (modEng_accessOnly _ e _)))
    · exact l2Read_accessOnly s src sa
  · exact l2Read_accessOnly s src sa

theorem writeSector_accessOnly (s : State) (src : Src) (sa off : Nat) (bs : List (BitVec 8)) :
    AccessOnly s (s.writeSector src sa off bs).2 := by
  unfold State.writeSector
  extract_lets loc line i whole x put hit missed
  have hput : ∀ s d, AccessOnly s (put s d) := by
    intro s d
    unfold put
    extract_lets pres written kept
    have hkept : AccessOnly s kept := by
      refine AccessOnly.trans (t := written) (modLine_accessOnly s line _) ?_
      unfold kept
      split
      · exact modEng_accessOnly written _ _
      · exact .refl written
    split
    · exact hkept.trans ⟨rfl, rfl⟩
    · exact hkept.trans ⟨rfl, rfl⟩
  split
  · have hhit : AccessOnly s hit := (monitor_accessOnly s src sa false).trans (hitLine_accessOnly _ _)
    split
    · exact hhit
    · exact hhit.trans (hput _ _)
  · split
    · have hmissed : AccessOnly s missed := (monitor_accessOnly s src sa true).trans (wakeStack_accessOnly _ _)
      split
      split
      · exact hmissed
      · exact hmissed.trans (toDram_accessOnly _ _ _ _ _)
    · split
      · exact (monitor_accessOnly s src sa true).trans ((enterLine_accessOnly _ _ _ _).trans (hput _ _))
      · have hread := l2Read_accessOnly s src sa
        split
        next heq =>
        replace hread := hread.of_eq₂ heq
        split
        · exact hread
        · exact hread.trans (hput _ _)

/-! ### Ranges of bytes -/

theorem logRead_accessOnly (s : State) (src : Src) (l : List (Nat × List (BitVec 8))) : AccessOnly s (s.logRead src l) := by
  unfold State.logRead
  split
  · exact modPkt_accessOnly s _ fun p => by split <;> rfl
  · exact .refl s

theorem logWrite_accessOnly (s : State) (src : Src) (l : List (Nat × List (BitVec 8))) : AccessOnly s (s.logWrite src l) := by
  unfold State.logWrite
  split
  · exact modPkt_accessOnly s _ fun p => by split <;> rfl
  · exact .refl s

theorem readRange_accessOnly (src : Src) (fuel : Nat) (s : State) (a n : Nat) :
    AccessOnly s (s.readRange src fuel a n).2.2 := by
  induction fuel generalizing s a n with
  | zero => exact .refl s
  | succ fuel ih =>
    unfold State.readRange
    split
    · exact .refl s
    · extract_lets off k
      have hread := readSector_accessOnly s src a (s.backing a / 32)
      split
      next heq =>
      replace hread := hread.of_eq₂ heq
      extract_lets here
      split
      · exact hread
      · exact hread.trans (ih _ _ _)

theorem readBytes_accessOnly (s : State) (src : Src) (a n : Nat) : AccessOnly s (s.readBytes src a n).2.2 := by
  unfold State.readBytes
  split
  · exact .refl s
  · exact (readRange_accessOnly src _ s a n).trans (logRead_accessOnly _ _ _)

theorem writeRange_accessOnly (src : Src) (fuel : Nat) (s : State) (a : Nat) (bs : List (BitVec 8)) :
    AccessOnly s (s.writeRange src fuel a bs).2 := by
  induction fuel generalizing s a bs with
  | zero => exact .refl s
  | succ fuel ih =>
    unfold State.writeRange
    split
    · exact .refl s
    · extract_lets off k
      have hwrite := writeSector_accessOnly s src (a / 32) off (bs.take k)
      split
      next heq => exact (hwrite.of_eq heq).trans (ih _ _ _)
      next heq => exact hwrite.of_eq heq

theorem writeBytes_accessOnly (s : State) (src : Src) (a : Nat) (bs : List (BitVec 8)) :
    AccessOnly s (s.writeBytes src a bs).2 := by
  unfold State.writeBytes
  split
  · exact ⟨rfl, rfl⟩
  · exact (logWrite_accessOnly s src _).trans (writeRange_accessOnly src _ _ _ _)

theorem rawRead_accessOnly (src : Src) (fuel : Nat) (s : State) (a n : Nat) : AccessOnly s (s.rawRead src fuel a n).2.2 := by
  induction fuel generalizing s a n with
  | zero => exact .refl s
  | succ fuel ih =>
    unfold State.rawRead
    split
    · exact .refl s
    · extract_lets off k
      have hread := readSector_accessOnly s src a (a / 32)
      split
      next heq =>
      replace hread := hread.of_eq₂ heq
      split
      · exact hread
      · exact hread.trans (ih _ _ _)

theorem rawWrite_accessOnly (src : Src) (fuel : Nat) (s : State) (a : Nat) (bs : List (BitVec 8)) :
    AccessOnly s (s.rawWrite src fuel a bs).2 := by
  induction fuel generalizing s a bs with
  | zero => exact .refl s
  | succ fuel ih =>
    unfold State.rawWrite
    split
    · exact .refl s
    · extract_lets off
      have hwrite := writeSector_accessOnly s src (a / 32) off (bs.take (32 - off))
      split
      next heq => exact (hwrite.of_eq heq).trans (ih _ _ _)
      next heq => exact hwrite.of_eq heq

end Sys2Proof.Machine
end

section
/-!
SUPPORT. COMMIT_STEP (09 R255 to R257).
-/
namespace Sys2Proof.Machine

/-- The machine that waits for the herd on behalf of packet i. -/
def State.holdForHerd (s : State) (i : Nat) : State := s.modPkt i fun p => { p with wait := .herd }

/-! ### HERD_TIMEOUT -/

/-- HERD_TIMEOUT ends a packet and records the member, the opcode and the step. -/
theorem herdTimeout_frame (s : State) (p : Pkt) (member : Nat) (step : BitVec 64) :
    s.herdTimeout p member step = { s with
      pkts := (s.herdTimeout p member step).pkts, ctxs := (s.herdTimeout p member step).ctxs
      engines := (s.herdTimeout p member step).engines, parts := (s.herdTimeout p member step).parts
      herd := { s.herd with failId := member % 64, failOp := p.op, failValid := true, failStep := step } } :=
  congrArg (fun u : State => { u with herd :=
    { s.herd with failId := member % 64, failOp := p.op, failValid := true, failStep := step } })
    (endPkt_endsOnly s p.id .herdTimeout 0 0 {} 0)

theorem pkt_herdTimeout {s : State} {i : Nat} {p p' : Pkt} (hi : p.id = i) (hp : s.pkt i = some p') (member : Nat) (step : BitVec 64) :
    ∃ r, (s.herdTimeout p member step).pkt i = some r ∧ r.Ended .herdTimeout 0 0 :=
  hi ▸ pkt_endPkt (hi ▸ hp) .herdTimeout 0 0 {} 0

/-! ### COMMIT_STEP -/

section
variable {t : State} {q : Pkt}

theorem commitBody_withoutHerd (hherd : t.herd.formed = false) (htwin : t.noTwin = false) :
    commitBody.body t q = ((t.holdForHerd q.id).setCommit (some
        { pkt := some q.id, step := BitVec.ofNat 64 (q.q 2), token := t.token (BitVec.ofNat 64 (q.q 2)) })).sendLog
      (t.token (BitVec.ofNat 64 (q.q 2))) (BitVec.ofNat 64 (q.q 2)) .provisional := by
  simp only [commitBody, hherd, htwin, Bool.false_eq_true, if_false]
  rfl

theorem commitBody_withoutTwin (hherd : t.herd.formed = false) (htwin : t.noTwin = true) :
    commitBody.body t q = t.herdTimeout q t.twinName (BitVec.ofNat 64 (q.q 2)) := by
  simp only [commitBody, hherd, htwin, Bool.false_eq_true, if_false, if_true]

theorem commitBody_leader (hherd : t.herd.formed = true) (hlead : t.isLeader = true) :
    commitBody.body t q = ((t.holdForHerd q.id).setCommit (some { pkt := some q.id, step := BitVec.ofNat 64 (q.q 2) })).onReady
      t.herd.self (BitVec.ofNat 64 (q.q 2)) := by
  simp only [commitBody, hherd, if_true]
  exact if_pos hlead

theorem commitBody_member (hherd : t.herd.formed = true) (hlead : t.isLeader = false) :
    commitBody.body t q = ((t.holdForHerd q.id).setCommit (some { pkt := some q.id, step := BitVec.ofNat 64 (q.q 2) })).send 0
      t.herd.leader "READY" [t.herd.self, (BitVec.ofNat 64 (q.q 2)).toNat] := by
  simp only [commitBody, hherd, if_true]
  exact if_neg (ne_true_of_eq_false hlead)

end

/-- Settles O33: by what the body of COMMIT_STEP is in each of its four cases, and what sending leaves alone. -/
theorem commitStepWaits : Obligations.CommitStepWaits := by
  unfold Obligations.CommitStepWaits
  intro h s t q hh hd step
  have hexec : exec (.commitStep h) s = .next (commitBody.body t q).noteAll := onHopper_dispatched hh hd
  refine ⟨fun hherd htwin => ?alone, fun hherd htwin => ?timeout, fun hherd hlead => ?leader, fun hherd hlead => ?member⟩
  case alone =>
    rw [commitBody_withoutHerd hherd htwin, sendLog_frame] at hexec
    exact ⟨_, hexec, rfl, rfl, rfl, rfl, rfl⟩
  case timeout =>
    obtain ⟨r, hr, hended⟩ := pkt_herdTimeout (p := q) rfl (dispatched_pkt hd) t.twinName step
    have hop : q.op = 0x51 := dispatched_op rfl (fun _ _ => rfl) hd
    rw [commitBody_withoutTwin hherd htwin, herdTimeout_frame] at hexec
    exact ⟨_, r, hexec, rfl, rfl, hr, hended.stage, hended.status_of_ne_ok (by decide), hop, rfl⟩
  case leader => rwa [commitBody_leader hherd hlead] at hexec
  case member =>
    rw [commitBody_member hherd hlead, send_sendsOnly] at hexec
    exact ⟨_, hexec, rfl, rfl, rfl, rfl, rfl⟩

end Sys2Proof.Machine
end

section
/-!
SUPPORT. What the messages of a commit do to the device that receives them (09 R256 to R258).
-/
namespace Sys2Proof.Machine

theorem running_of_ready {s : State} (h : s.mode = .ready) : s.running = true := by simp [State.running, h]

@[simp] theorem pkt_sendLog (s : State) (token step : BitVec 64) (st : LogState) (i : Nat) :
    (s.sendLog token step st).pkt i = s.pkt i := by
  rw [sendLog_frame]; rfl

@[simp] theorem pkt_setCommit (s : State) (c : Option CommitSt) (i : Nat) : (s.setCommit c).pkt i = s.pkt i := rfl
@[simp] theorem pkt_localCommit (s : State) (i : Nat) : s.localCommit.pkt i = s.pkt i := rfl
@[simp] theorem pkt_clearPending (s : State) (i : Nat) : s.clearPending.pkt i = s.pkt i := rfl
theorem localCommit_mem (s : State) : s.localCommit.mem = s.mem := rfl

/-- After a rollback to the step in force no page is PENDING (R255). -/
theorem clearPending_pages (s : State) : ∀ x ∈ s.clearPending.regions.pages, pgPending x.2 = false := by
  intro x hx
  obtain ⟨y, -, rfl⟩ := List.mem_map.mp (List.mem_filter.mp hx).1
  exact (by decide : ∀ v : BitVec 4, pgPending (v &&& 0xD) = false) y.2

/-- The device is not UNDECIDED any more. -/
def State.decided (s : State) : State := { s with train := { s.train with undecided := false } }

@[simp] theorem pkt_decided (s : State) (i : Nat) : s.decided.pkt i = s.pkt i := rfl

/-! ### At a member (R257) -/

section
variable {s : State} {c : CommitSt} (hc : s.train.commit = some c)
include hc

/-- COMMIT at a member that waits for it. -/
theorem onCommit_waiting (hpkt : c.pkt.isSome = true) (hflip : c.flipped = false) (token : BitVec 64) :
    s.onCommit c.step token =
      (s.localCommit.setCommit (some { c with token := token, flipped := true })).sendLog token c.step .provisional := by
  simp [State.onCommit, hc, hpkt, hflip]

/-- DONE at a member that has flipped its pages. -/
theorem onDone_flipped {i : Nat} (hpkt : c.pkt = some i) (hflip : c.flipped = true) (token : BitVec 64) :
    s.onDone c.step token =
      ((s.setCommit none).sendLog token c.step .final).decided.endPkt i .ok c.step.toNat token.toNat := by
  simp [State.onDone, hc, hpkt, hflip, State.decided]

/-- ROLLBACK to the step in force: PENDING clears, and the packet is aborted. -/
theorem onRollback_committed {i : Nat} (hpkt : c.pkt = some i) :
    s.onRollback s.train.committed =
      ((s.clearPending.decided.setCommit none).sendLog (s.undone s.train.committed).2 (s.undone s.train.committed).1
        .rolledBack).endPkt i .commitAborted 0 0 := by
  simp only [State.onRollback, State.rollbackTo, hc, hpkt, if_true, Option.bind_some]
  rfl

/-- LOGGED without a herd: the commit is performed, and the packet ends (R256). -/
theorem onLogged_withoutHerd {i : Nat} (hherd : s.herd.formed = false) (hack : c.acked = false) (hpkt : c.pkt = some i) :
    s.onLogged c.token =
      ((s.localCommit.setCommit none).sendLog c.token c.step .final).endPkt i .ok c.step.toNat c.token.toNat := by
  simp [State.onLogged, hc, hherd, hack, hpkt]

/-- Without a herd the passing of HERD_WAIT_LIMIT gives the commit up (R256). -/
theorem commitExpired_withoutHerd (hherd : s.herd.formed = false) (p : Pkt) :
    s.commitExpired p = (s.setCommit none).herdTimeout p s.twinName c.step := by
  simp only [State.commitExpired, hc, hherd, Bool.not_false, if_true]

end

/-! ### At the leader (R256 to R258) -/

/-- A first READY is kept while a member's is missing. -/
theorem onReady_first {s : State} {x : Nat} (hlead : s.herd.lead = none) (hall : s.herd.allOf [x] = false) (step : BitVec 64) :
    s.onReady x step = s.setLead (some { step := step, ready := [x] }) := by
  simp [State.onReady, hlead, hall]

/-- A further ACK is kept while a member's is missing. -/
theorem onAck_further {s : State} {l : Lead} {x : Nat} (hlead : s.herd.lead = some l) (htoken : l.token.isSome = true)
    (hx : x ∉ l.acks) (hall : s.herd.allOf (l.acks ++ [x]) = false) :
    s.onAck x l.step = s.setLead (some { l with acks := l.acks ++ [x] }) := by
  obtain ⟨k, hk⟩ := Option.isSome_iff_exists.mp htoken
  simp [State.onAck, hlead, hk, hx, hall]

/-- A STATE is kept while a live member's is missing. -/
theorem onState_further {s : State} {m : MemberState} (hres : s.herd.resolving = true)
    (hall : (s.herd.live.all fun y => ((s.herd.states.filter fun z => z.x != m.x) ++ [m]).any fun z => z.x = y) = false) :
    s.onState m = { s with herd := { s.herd with states := (s.herd.states.filter fun z => z.x != m.x) ++ [m] } } := by
  unfold State.onState
  rw [if_pos hres]
  exact if_neg (ne_true_of_eq_false hall)

/-- HERD_WAIT_LIMIT_EXPIRY of a COMMIT_STEP without a herd (R256). -/
theorem herdWaitExpiry_commit {s : State} {h : Nat} {p : Pkt} {c : CommitSt} (hfront : s.front h = some p) (hwait : p.wait = .herd)
    (hop : p.op = 0x51) (hcoll : s.coll p.id = none) (hc : s.train.commit = some c) (hherd : s.herd.formed = false) :
    herdWaitExpiry h s = (s.setCommit none).herdTimeout p s.twinName c.step := by
  have hlead : s.isLeader = false := by simp [State.isLeader, hherd]
  rw [← commitExpired_withoutHerd hc hherd]
  simp [herdWaitExpiry, hfront, hwait, hcoll, hop, hlead, hc]

/-- Settles O54: each message by what it does in the case its clause names, and what sending and the end of a packet leave
alone. -/
theorem commitMessagesTakeEffect : Obligations.CommitMessagesTakeEffect := by
  unfold Obligations.CommitMessagesTakeEffect
  intro s step token hmode
  have hrun := running_of_ready hmode
  refine ⟨?log, ?commit, ?done, ?rollback, ?logged, ?ready, ?ack, ?state, ?expiry⟩
  case log =>
    intro hbase st
    have hexec : exec (.log token step st) s = .next (({ s with train := { s.train with
        log := ((token, step, st) :: s.train.log).take 1024 } } : State).sendTwin 0 "LOGGED" [token.toNat]).noteAll := by
      show execLog token step st s = _
      simp [execLog, hrun, hbase]
    rw [sendTwin_sendsOnly] at hexec
    exact ⟨_, hexec, rfl, rfl⟩
  case commit =>
    rintro c hherd hc rfl hpkt hflip
    have hexec : exec (.commit c.step token) s = .next (s.onCommit c.step token).noteAll := by
      show execCommit c.step token s = _
      simp [execCommit, hrun, hherd]
    rw [onCommit_waiting hc hpkt hflip, sendLog_frame] at hexec
    exact ⟨_, hexec, rfl, rfl, rfl, rfl, localCommit_mem s⟩
  case done =>
    rintro c i hherd hc rfl hpkt hflip hi
    obtain ⟨p, hp⟩ := Option.isSome_iff_exists.mp hi
    have hexec : exec (.done c.step token) s = .next (s.onDone c.step token).noteAll := by
      show execDone c.step token s = _
      simp [execDone, hrun, hherd]
    rw [onDone_flipped hc hpkt hflip] at hexec
    obtain ⟨r, hr, hended⟩ := pkt_endPkt (s := ((s.setCommit none).sendLog token c.step .final).decided)
      (p := p) (by simpa using hp) .ok c.step.toNat token.toNat {} 0
    rw [endPkt_endsOnly, sendLog_frame] at hexec hr
    exact ⟨_, r, hexec, rfl, rfl, rfl, hr, hended.stage, by simpa using hended.r0, by simpa using hended.r1⟩
  case rollback =>
    rintro c i hherd hc hpkt hi rfl
    obtain ⟨p, hp⟩ := Option.isSome_iff_exists.mp hi
    have hexec : exec (.rollback s.train.committed) s = .next (s.onRollback s.train.committed).noteAll := by
      show execRollback s.train.committed s = _
      simp [execRollback, hrun, hherd]
    rw [onRollback_committed hc hpkt] at hexec
    obtain ⟨r, hr, hended⟩ := pkt_endPkt (s := (s.clearPending.decided.setCommit none).sendLog (s.undone s.train.committed).2
      (s.undone s.train.committed).1 .rolledBack) (p := p) (by simpa using hp) .commitAborted 0 0 {} 0
    rw [endPkt_endsOnly, sendLog_frame] at hexec hr
    exact ⟨_, r, hexec, rfl, rfl, clearPending_pages s, hr, hended.status_of_ne_ok (by decide)⟩
  case logged =>
    rintro c i hherd hc rfl hack hpkt hi
    obtain ⟨p, hp⟩ := Option.isSome_iff_exists.mp hi
    have hexec : exec (.logged c.token) s = .next (s.onLogged c.token).noteAll := by
      show execLogged c.token s = _
      simp [execLogged, hrun]
    rw [onLogged_withoutHerd hc hherd hack hpkt] at hexec
    obtain ⟨r, hr, hended⟩ := pkt_endPkt (s := (s.localCommit.setCommit none).sendLog c.token c.step .final)
      (p := p) (by simpa using hp) .ok c.step.toNat c.token.toNat {} 0
    rw [endPkt_endsOnly, sendLog_frame] at hexec hr
    exact ⟨_, r, hexec, rfl, rfl, hr, hended.stage, by simpa using hended.r0, by simpa using hended.r1⟩
  case ready =>
    intro x hx hlead hnone hall
    show execReadyMessage x step s = _
    simp only [execReadyMessage, hx, hlead, hrun, decide_true, Bool.and_self, if_true, onReady_first hnone hall]
    rfl
  case ack =>
    rintro x l k hx hlead hl hk rfl hnew hall
    show execAck x l.step s = _
    simp only [execAck, hx, hlead, hrun, decide_true, Bool.and_self, if_true,
      onAck_further hl (Option.isSome_of_eq_some hk) hnew hall]
    rfl
  case state =>
    rintro x m hx hlead hres rfl hall
    show execState m.x m.committed m.undecided { own := m.log, twin := m.twin } s = _
    simp only [execState, hx, hlead, hrun, decide_true, Bool.and_self, if_true, onState_further hres hall]
    rfl
  case expiry =>
    intro h p c hh hfront hp hwait hop hcoll hc hherd
    have hexec : exec (.herdWaitLimitExpiry h) s = .next (herdWaitExpiry h s).noteAll := by
      show execHerdWaitLimitExpiry h s = _
      simp [execHerdWaitLimitExpiry, hrun, hh]
    rw [herdWaitExpiry_commit hfront hwait hop hcoll hc hherd] at hexec
    obtain ⟨r, hr, hended⟩ := pkt_herdTimeout (s := s.setCommit none) (p := p) rfl hp s.twinName c.step
    rw [herdTimeout_frame] at hexec
    exact ⟨_, r, hexec, rfl, hr, hended.status_of_ne_ok (by decide), hop⟩

end Sys2Proof.Machine
end

section
/-!
SUPPORT. Stash and replay packets (09 R227 to R236, R266 to R268): each reads and writes memory, then ends.
-/
namespace Sys2Proof.Machine

/-! ### An end after accesses to memory -/

/-- In u packet i of t has ended, with n in the result named or at a poisoned sector (R209), and registers, keys, the AON island,
the herd and the training path are those of t. -/
structure EndsAfterAccess (t u : State) (i : Nat) (result : Pkt → BitVec 64) (n : Nat) : Prop where
  pkt : ∃ r, u.pkt i = some r ∧ r.stage = .ended ∧ (r.status = .ok ∨ r.status = .okFlags ∨ r.status = .eccUncorr) ∧
    (r.status ≠ .eccUncorr → result r = BitVec.ofNat 64 n)
  hops : u.hops = t.hops
  sec : u.sec = t.sec
  aon : u.aon = t.aon
  train : u.train = t.train
  herd : u.herd = t.herd

theorem pkt_noteAll (s : State) (i : Nat) : s.noteAll.pkt i = s.pkt i := by
  rw [State.pkt, State.noteAll_pkts, State.pkt]

section
variable {t w u : State} {i n r0 r1 : Nat} {q : Pkt} {result : Pkt → BitVec 64}

theorem EndsAfterAccess.noteAll (h : EndsAfterAccess t u i result n) : EndsAfterAccess t u.noteAll i result n where
  pkt := by rw [pkt_noteAll]; exact h.pkt
  hops := (State.noteAll_hops u).trans h.hops
  sec := (State.noteAll_sec u).trans h.sec
  aon := (State.noteAll_aon u).trans h.aon
  train := (State.noteAll_train u).trans h.train
  herd := (State.noteAll_herd u).trans h.herd

/-- A packet that ends well with the count in its result. -/
theorem endPkt_ok_endsAfterAccess (hw : AccessOnly t w) (hq : t.pkt i = some q) (fl : Flags) (c : Nat)
    (hn : ∀ r : Pkt, r.Ended .ok r0 r1 → result r = BitVec.ofNat 64 n) :
    EndsAfterAccess t (w.endPkt i .ok r0 r1 fl c) i result n := by
  obtain ⟨q', hq', -⟩ := pkt_of_requests hw.requests hq
  obtain ⟨r, hr, hended⟩ := pkt_endPkt hq' .ok r0 r1 fl c
  have hstatus : r.status = .ok ∨ r.status = .okFlags := by simpa using hended.status
  rw [endPkt_endsOnly, hw.frame] at hr ⊢
  exact ⟨⟨r, hr, hended.stage, hstatus.imp_right .inl, fun _ => hn r hended⟩, rfl, rfl, rfl, rfl, rfl⟩

/-- A packet that meets a poisoned sector. -/
theorem endPkt_poison_endsAfterAccess (hw : AccessOnly t w) (hq : t.pkt i = some q) :
    EndsAfterAccess t (w.endPkt i .eccUncorr r0 r1) i result n := by
  obtain ⟨q', hq', -⟩ := pkt_of_requests hw.requests hq
  obtain ⟨r, hr, hended⟩ := pkt_endPkt hq' .eccUncorr r0 r1 {} 0
  have hstatus := hended.status_of_ne_ok (by decide)
  rw [endPkt_endsOnly, hw.frame] at hr ⊢
  exact ⟨⟨r, hr, hended.stage, .inr (.inr hstatus), fun hne => absurd hstatus hne⟩, rfl, rfl, rfl, rfl, rfl⟩

theorem compFail_poison_endsAfterAccess (hw : AccessOnly t w) (hq : t.pkt i = some q) (hop : q.op ≠ opCTX_FEED) :
    EndsAfterAccess t (w.compFail i .eccUncorr r0) i result n := by
  obtain ⟨q', hq', hsame⟩ := pkt_of_requests hw.requests hq
  obtain ⟨r1, hfail⟩ := compFail_eq_endPkt hq' (hsame ▸ hop) .eccUncorr r0
  exact hfail ▸ endPkt_poison_endsAfterAccess hw hq

end

/-! ### Tensors in the stash (R227 to R236) -/

theorem readOperand_accessOnly (s : State) (src : Src) (d : TDesc) (r j n : Nat) :
    AccessOnly s (s.readOperand src d r j n).2.2 := by
  unfold State.readOperand
  split
  · exact readBytes_accessOnly s src _ _
  · exact readBytes_accessOnly s src _ _

theorem readTensor_accessOnly (src : Src) (d : TDesc) (n : Nat) (s : State) (r : Nat) (acc : List Nat) (e : Option Nat) :
    AccessOnly s (s.readTensor src d n r acc e).2.2 := by
  induction n generalizing s r acc e with
  | zero => exact .refl s
  | succ n ih =>
    unfold State.readTensor
    have hread := readOperand_accessOnly s src d r 0 d.len
    split
    next heq => exact (hread.of_eq₂ heq).trans (ih _ _ _ _)

theorem padRecord_accessOnly (s : State) (p : Pkt) (n : Nat) : AccessOnly s (s.padRecord p n).2 :=
  (draw_accessOnly s).trans (writeBytes_accessOnly _ _ _ _)

theorem loadRows_accessOnly (p : Pkt) (d : TDesc) (vals : List Val) (raw : List Nat) (n : Nat) (s : State) (r : Nat) (f : Flags) :
    AccessOnly s (s.loadRows p d vals raw n r f).2.2 := by
  induction n generalizing s r f with
  | zero => exact .refl s
  | succ n ih =>
    unfold State.loadRows
    extract_lets key res
    have hwrite := writeBytes_accessOnly s (stashSrc p) (d.addr r 0) (elemBytes d.esz (res.map (·.1)))
    split
    next heq => exact hwrite.of_eq heq
    next heq => exact (hwrite.of_eq heq).trans (ih _ _ _)

/-- The elements of a stash packet's tensor. -/
def Pkt.stashElems (p : Pkt) : Nat := (tdesc p 0 .tensor).len * (tdesc p 0 .tensor).rows

section
variable {t : State} {q : Pkt} (hq : t.pkt q.id = some q) (hop : q.op ≠ opCTX_FEED)
include hq hop

/-- STASH_SAVE ends with the elements it has saved in RESULT_1 (R235). -/
theorem stashSave_ends : EndsAfterAccess t (t.stashSave q) q.id Pkt.r1 q.stashElems := by
  unfold State.stashSave
  extract_lets d sfmt n
  have hread := readTensor_accessOnly (stashSrc q) d d.rows t 0 [] none
  split
  next heq => exact compFail_poison_endsAfterAccess (hread.of_eq₂ heq) hq hop
  next heq =>
    replace hread := hread.of_eq₂ heq
    split
    split
    next heq => exact compFail_poison_endsAfterAccess (hread.trans ((writeBytes_accessOnly _ _ _ _).of_eq heq)) hq hop
    next heq =>
      have hwrite := hread.trans ((writeBytes_accessOnly _ _ _ _).of_eq heq)
      split
      next heq => exact compFail_poison_endsAfterAccess (hwrite.trans ((padRecord_accessOnly _ _ _).of_eq heq)) hq hop
      next heq =>
        exact endPkt_ok_endsAfterAccess (hwrite.trans ((padRecord_accessOnly _ _ _).of_eq heq)) hq _ _ fun _ h => h.r1

/-- STASH_LOAD ends with the elements it has loaded in RESULT_0 (R236). -/
theorem stashLoad_ends : EndsAfterAccess t (t.stashLoad q) q.id Pkt.r0 q.stashElems := by
  unfold State.stashLoad
  extract_lets d sfmt n pay
  split
  next heq =>
  have hheader := (readBytes_accessOnly _ _ _ _).of_eq₂ heq
  split
  next heq =>
  have hread := hheader.trans ((readBytes_accessOnly _ _ _ _).of_eq₂ heq)
  split
  next => exact compFail_poison_endsAfterAccess hread hq hop
  next =>
    extract_lets lim vals raw
    have hwrite := hread.trans ((draw_accessOnly _).trans (loadRows_accessOnly q d vals raw d.rows _ 0 {}))
    split
    next heq => exact compFail_poison_endsAfterAccess (hwrite.of_eq₂ heq) hq hop
    next heq => exact endPkt_ok_endsAfterAccess (hwrite.of_eq₂ heq) hq _ _ fun _ h => h.r0

end

theorem loadBody_requests (s : State) (p : Pkt) : (loadBody.atDecode s p).requests = s.requests := by
  unfold loadBody
  exact modPkt_requests s p.id fun _ => rfl

/-- Settles O30: both bodies only access memory before they end, with the count of elements or at a poisoned sector. -/
theorem stashPacketsReply : Obligations.StashPacketsReply := by
  unfold Obligations.StashPacketsReply
  refine fun h s t q hh => ⟨fun hd => ?save, fun hd => ?load⟩
  case save =>
    have hop : q.op = 0x40 := dispatched_op rfl (fun _ _ => rfl) hd
    have hends := (stashSave_ends (dispatched_pkt hd) (by rw [hop]; decide)).noteAll
    obtain ⟨r, hr, hstage, hstatus, hcount⟩ := hends.pkt
    exact ⟨_, r, onHopper_dispatched hh hd, hr, hstage, hstatus, hcount, hends.hops, hends.sec, hends.aon⟩
  case load =>
    have hop : q.op = 0x41 := dispatched_op rfl loadBody_requests hd
    have hends := (stashLoad_ends (dispatched_pkt hd) (by rw [hop]; decide)).noteAll
    obtain ⟨r, hr, hstage, hstatus, hcount⟩ := hends.pkt
    exact ⟨_, r, onHopper_dispatched hh hd, hr, hstage, hstatus, hcount, hends.hops, hends.sec, hends.aon⟩

/-! ### Replay (R266 to R268) -/

/-- REPLAY_RUN ends with the packets replayed in RESULT_0 (R268). -/
theorem replayRun_ends {t : State} {q : Pkt} (hq : t.pkt q.id = some q) :
    EndsAfterAccess t (t.replayRun q) q.id Pkt.r0 t.replay.recs.length := by
  unfold State.replayRun
  extract_lets x drawn src
  have hdrawn : AccessOnly t drawn := ⟨rfl, rfl⟩
  split
  next heq => exact endPkt_poison_endsAfterAccess (hdrawn.trans ((rawWrite_accessOnly _ _ _ _ _).of_eq heq)) hq
  next w heq =>
    have hw : AccessOnly t w := hdrawn.trans ((rawWrite_accessOnly _ _ _ _ _).of_eq heq)
    have hreplay : w.replay = t.replay := by rw [hw.frame]
    rw [hreplay]
    exact endPkt_ok_endsAfterAccess hw hq _ _ fun _ h => h.r0

theorem replayArm_arms {t : State} {q : Pkt} (hstop : bit (q.w 2) 0 = false) :
    t.replayArm q =
      ({ t with replay := { armed := some (q.hop, q.w 3, q.part), part := q.part } } : State).endPkt q.id .ok (q.w 3) 0 :=
  if_neg (ne_true_of_eq_false hstop)

theorem replayArm_stops {t : State} {q : Pkt} (hstop : bit (q.w 2) 0 = true) :
    t.replayArm q = t.endRecording.endPkt q.id .ok 0 0 := if_pos hstop

theorem replayCountReached_ends {s : State} {x n p : Nat} (harmed : s.replay.armed = some (x, n, p))
    (hn : n ≤ s.replay.recs.length) : replayCountReached s = s.endRecording := by
  simp [replayCountReached, harmed, hn]

/-- Settles O31: by what REPLAY_ARM, the end of a recording and REPLAY_RUN each make of the state. -/
theorem replayRecordsAndRuns : Obligations.ReplayRecordsAndRuns := by
  unfold Obligations.ReplayRecordsAndRuns
  refine fun h s t q hh => ⟨fun hd hstop => ?arm, fun hd hstop => ?stop, fun x n p harmed hn => ?count, fun hd => ?run⟩
  case arm => exact (onHopper_dispatched hh hd).trans (congrArg (noted true) (replayArm_arms hstop))
  case stop => exact (onHopper_dispatched hh hd).trans (congrArg (noted true) (replayArm_stops hstop))
  case count => exact congrArg (noted true) (replayCountReached_ends harmed hn)
  case run =>
    have hends := (replayRun_ends (dispatched_pkt hd)).noteAll
    obtain ⟨r, hr, hstage, -, hcount⟩ := hends.pkt
    exact ⟨_, r, onHopper_dispatched hh hd, hr, hstage, hends.hops, hends.train, hends.herd, hcount⟩

end Sys2Proof.Machine
end

section
/-!
SUPPORT. CHECKPOINT and RESTORE (09 R261 to R265), from the Hopper and by their messages.
-/
namespace Sys2Proof.Machine

/-! ### CHECKPOINT on the sender -/

def State.setCkpt (s : State) (c : Option CkptRun) : State := { s with train := { s.train with ckpt := c } }

theorem pkt_setCkpt (s : State) (c : Option CkptRun) (i : Nat) : (s.setCkpt c).pkt i = s.pkt i := rfl

/-- Page states change, and nothing else. -/
theorem setPages_frame {α : Type} (page : α → Nat) (v : State → α → BitVec 4) (l : List α) (s : State) :
    l.foldl (fun s x => s.setPage (page x) (v s x)) s =
      { s with regions := (l.foldl (fun s x => s.setPage (page x) (v s x)) s).regions } :=
  List.foldlRecOn (motive := fun t : State => t = { s with regions := t.regions }) l _ rfl fun t ht x _ => by
    rw [ht]
    rfl

/-- A CHECKPOINT given up: pages become DIRTY, and no checkpoint runs. -/
theorem dropCkpt_frame (s : State) :
    s.dropCkpt = { s with regions := s.dropCkpt.regions, train := { s.train with ckpt := none } } := by
  unfold State.dropCkpt
  split
  next hnone => rw [← hnone]
  next c _ =>
    exact congrArg (fun u : State => { u with train := { u.train with ckpt := none } })
      (setPages_frame (fun pg => pg) (fun s pg => s.pageState pg ||| 0x8) (c.sent ++ c.todo.map (·.1)) s)

theorem takeCkpt_requests (s : State) (p : Pkt) : (s.takeCkpt p).requests = s.requests := by
  unfold State.takeCkpt
  split
  · rfl
  · have hmarked := setPages_frame (fun x => x.1) (fun s x => s.pageState x.1 &&& 0x7) (s.ckptPages (bit (p.w 2) 0)) s
    exact (congrArg State.requests hmarked :)

theorem logRead_mem (s : State) (src : Src) (l : List (Nat × List (BitVec 8))) : (s.logRead src l).mem = s.mem := by
  unfold State.logRead
  split <;> rfl

/-- The read by which a CHECKPOINT takes a page, from the copy that holds the step (R261). -/
def State.readPage (s : State) (i pg : Nat) (gen : Bool) : List (BitVec 8) × Option Nat × State :=
  s.rawRead (evictSrc i) 2050 (s.paramCopy gen (s.regions.paramBase + pg * 65536)) 65536

theorem rawGet_page (s : State) (i pg : Nat) (gen : Bool) :
    ∃ y, s.rawGet (evictSrc i) (s.paramCopy gen (s.regions.paramBase + pg * 65536)) 65536 =
        ((s.readPage i pg gen).1, (s.readPage i pg gen).2.1, y) ∧
      AccessOnly s y ∧ y.mem = (s.readPage i pg gen).2.2.mem := by
  refine ⟨(s.readPage i pg gen).2.2.logRead (evictSrc i) [(s.paramCopy gen (s.regions.paramBase + pg * 65536),
    (s.readPage i pg gen).1)], ?_, ?_, logRead_mem _ _ _⟩
  · simp only [State.rawGet, State.readPage]
  · exact (rawRead_accessOnly _ _ _ _ _).trans (logRead_accessOnly _ _ _)

theorem readPage_of_regions {s t : State} (h : s.regions = t.regions) (i pg : Nat) (gen : Bool) :
    s.readPage i pg gen = s.rawRead (evictSrc i) 2050 (t.paramCopy gen (t.regions.paramBase + pg * 65536)) 65536 := by
  simp only [State.readPage, State.paramCopy, h]

/-- The next page of a CHECKPOINT is read and sent, or the CHECKPOINT is given up (R261, R264). -/
theorem sendCkpt_frame {s : State} {p p' : Pkt} {c : CkptRun} {pg : Nat} {gen : Bool} {rest : List (Nat × Bool)}
    (hp : s.pkt p.id = some p') (hop : p'.op ≠ opCTX_FEED) (hc : s.train.ckpt = some c) (htodo : c.todo = (pg, gen) :: rest) :
    (s.sendCkpt p).mem = (s.readPage p.id pg gen).2.2.mem ∧ (s.sendCkpt p).herd = s.herd ∧
      (s.sendCkpt p).train = { s.train with ckpt :=
        if (s.readPage p.id pg gen).2.1.isNone then some { c with todo := rest, sent := c.sent ++ [pg] } else none } := by
  obtain ⟨y, hget, hread, hmem⟩ := rawGet_page s p.id pg gen
  unfold State.sendCkpt
  simp only [hc, htodo, hget]
  cases (s.readPage p.id pg gen).2.1 with
  | some a =>
    dsimp only
    obtain ⟨p'', hp'', hsame⟩ := pkt_of_requests hread.requests hp
    have hdropped : y.dropCkpt.pkt p.id = some p'' := by rw [dropCkpt_frame]; exact hp''
    obtain ⟨r1, hfail⟩ := compFail_eq_endPkt hdropped (hsame ▸ hop) .eccUncorr (s.regions.paramBase + pg * 65536)
    rw [hfail, endPkt_endsOnly, dropCkpt_frame]
    exact ⟨hmem, by rw [hread.frame], by rw [hread.frame]; rfl⟩
  | none =>
    dsimp only
    rw [sendTwin_sendsOnly]
    exact ⟨hmem, by rw [hread.frame], by rw [hread.frame]; rfl⟩

section
variable {t : State} {q : Pkt}

theorem ckptBody_sends {c : CkptRun} {pg : Nat} {gen : Bool} {rest : List (Nat × Bool)} (htwin : t.noTwin = false)
    (hc : t.train.ckpt = some c) (htodo : c.todo = (pg, gen) :: rest) :
    ckptBody.body t q = (t.sendOwed.holdForHerd q.id).sendCkpt q := by
  have hsent : (t.sendOwed.holdForHerd q.id).train.ckpt = some c := by rw [← hc, sendOwed_sendsOnly]; rfl
  unfold State.holdForHerd at hsent
  simp only [ckptBody, htwin, hc, hsent, htodo]
  rfl

theorem ckptBody_withoutTwin (htwin : t.noTwin = true) :
    ckptBody.body t q = (t.setCkpt none).herdTimeout q t.twinName t.train.committed := by
  simp only [ckptBody, htwin, Bool.true_or, if_true]
  rfl

end

/-! ### RESTORE -/

/-- At decode the holder is asked, and the packet waits (R265). -/
theorem askRestore_frame {s : State} {p : Pkt} (htwin : s.noTwin = false) :
    s.askRestore p = { s.holdForHerd p.id with
      ports := (s.askRestore p).ports, out := (s.askRestore p).out
      train := { s.train with restore := some { pkt := p.id, member := p.w 2 % 64, step := BitVec.ofNat 64 (p.q 4) } } } := by
  unfold State.askRestore
  extract_lets m step waiting train asking
  rw [if_neg (by simp [htwin])]
  split
  · exact sendTwin_sendsOnly asking _ _ _ _
  · exact send_sendsOnly asking _ _ _ _ _

theorem pkt_setRestore (s : State) (r : Option RestoreRun) (i : Nat) : (s.setRestore r).pkt i = s.pkt i := rfl

theorem restoreBody_withoutPages {t : State} {q : Pkt} {r : RestoreRun} (hr : t.train.restore = some r) (hearly : r.early = []) :
    restoreBody.body t q = (t.holdForHerd q.id).setRestore (some r) := by
  have hsame : { r with early := [] } = r := by rw [← hearly]
  simp only [restoreBody, hr, hearly, List.foldl_nil, hsame]
  rfl

/-- A packet that waits is not dispatched. -/
theorem tryDispatch_waiting {s : State} {i : Nat} {p : Pkt} {o : OpBody} (hp : s.pkt i = some p) (hwait : p.wait ≠ .none) :
    s.tryDispatch o i = s := by
  simp [State.tryDispatch, hp, hwait]

theorem onHopper_eq {h : Nat} {s : State} (hh : h < 256) (o : OpBody) : s.onHopper h o = .next (s.runPacket h o).noteAll := by
  simp [State.onHopper, hh]

section
variable {s : State} {h : Nat} {o : OpBody} {p : Pkt} (hrun : s.running = true) (hfront : s.front h = some p) (hsel : o.sel p = true)
include hrun hfront hsel

/-- The front packet whose turn it is and that has no offence is decoded (R65). -/
theorem runPacket_decodes (hp : s.pkt p.id = some p) (hstage : p.stage = .fetched) (hturn : s.mayDecode p = true)
    (hjudge : (s.decodeView p).judge p (o.units p) (o.dec (s.decodeView p) p) = none) :
    s.runPacket h o = (o.atDecode (s.decoded p) { p with stage := .decoded, seed := (s.part p.part).seed }).tryDispatch o p.id := by
  have hdecoded : (s.decoded p).pkt p.id = some { p with stage := .decoded, seed := (s.part p.part).seed } :=
    pkt_modPkt hp fun _ => rfl
  simp only [State.runPacket, State.withFront, hfront, hrun, hsel, hstage, hturn, hjudge]
  rw [State.decoded] at hdecoded ⊢
  rw [hdecoded]
  rfl

/-- The decoded front packet runs once its turn has come, where its opcode needs no engine and has no operand (R165, R169). -/
theorem runPacket_runs (hp : s.pkt p.id = some p) (hstage : p.stage = .decoded) (hwait : p.wait = .none)
    (hturn : s.mayDispatch p = true) (hengine : ((opInfo p.op).map (·.e)).getD false = false)
    (hreach : ∀ t, (o.dec t p).reach = []) :
    s.runPacket h o = o.body (s.taken p) (((s.taken p).pkt p.id).getD p) := by
  have htry : s.runPacket h o = s.dispatch o p := by
    simp [State.runPacket, State.withFront, State.tryDispatch, hfront, hrun, hsel, hp, hstage, hwait, hturn]
  rw [htry, dispatch_eq, hengine, hreach]
  rfl

end

/-- Settles O34: by what the bodies of CHECKPOINT and RESTORE, and the decoding of RESTORE, each make of the state. -/
theorem checkpointAndRestoreWait : Obligations.CheckpointAndRestoreWait := by
  unfold Obligations.CheckpointAndRestoreWait
  refine fun h s t q hh => ⟨?sends, ?timeout, ?asks, ?takes⟩
  case sends =>
    intro c pg gen rest hd htwin hc htodo
    have hexec : exec (.checkpoint h) s = .next (ckptBody.body t q).noteAll := onHopper_dispatched hh hd
    rw [ckptBody_sends htwin hc htodo] at hexec
    have hop : q.op = 0x58 := dispatched_op rfl takeCkpt_requests hd
    have hframe : t.sendOwed.holdForHerd q.id = { t.holdForHerd q.id with
        ports := t.sendOwed.ports, out := t.sendOwed.out } := by rw [sendOwed_sendsOnly]; rfl
    have hq : (t.sendOwed.holdForHerd q.id).pkt q.id = some { q with wait := .herd } := by
      rw [hframe]; exact pkt_modPkt (dispatched_pkt hd) fun _ => rfl
    have hregions : (t.sendOwed.holdForHerd q.id).regions = t.regions := by rw [hframe]; rfl
    have htrain : (t.sendOwed.holdForHerd q.id).train = t.train := by rw [hframe]; rfl
    have hherd : (t.sendOwed.holdForHerd q.id).herd = t.herd := by rw [hframe]; rfl
    obtain ⟨hmem', hherd', htrain'⟩ := sendCkpt_frame (p := q) (s := t.sendOwed.holdForHerd q.id) hq
      (show q.op ≠ opCTX_FEED by rw [hop]; decide) (by rw [htrain, hc]) htodo
    rw [readPage_of_regions hregions] at hmem' htrain'
    rw [htrain] at htrain'
    refine ⟨_, hexec, (State.noteAll_mem _).trans hmem', ?_, ?_, ?_⟩
    · rw [State.noteAll_train, htrain']
    · rw [State.noteAll_herd, hherd', hherd]
    · rw [State.noteAll_train, htrain']
      rfl
  case timeout =>
    intro hd htwin
    have hexec : exec (.checkpoint h) s = .next (ckptBody.body t q).noteAll := onHopper_dispatched hh hd
    have hop : q.op = 0x58 := dispatched_op rfl takeCkpt_requests hd
    obtain ⟨r, hr, hended⟩ := pkt_herdTimeout rfl ((pkt_setCkpt t none q.id).trans (dispatched_pkt hd)) t.twinName t.train.committed
    rw [ckptBody_withoutTwin htwin] at hexec
    refine ⟨_, r, hexec, ?_, ?_, (pkt_noteAll _ _).trans hr, hended.stage, hended.status_of_ne_ok (by decide), ?_⟩
    · rw [State.noteAll_mem, herdTimeout_frame]; rfl
    · rw [State.noteAll_regions, herdTimeout_frame]; rfl
    · rw [State.noteAll_herd, herdTimeout_frame]; exact hop
  case asks =>
    intro p hrun hfront hp hop hstage hwait hturn hjudge htwin
    have hsel : restoreBody.sel p = true := by simp [restoreBody, selOp, hop]
    have hexec : exec (.restore h) s = .next (s.runPacket h restoreBody).noteAll := onHopper_eq hh restoreBody
    rw [runPacket_decodes hrun hfront hsel hp hstage hturn hjudge] at hexec
    have hdecoded : (s.decoded p).pkt p.id = some { p with stage := .decoded, seed := (s.part p.part).seed } :=
      pkt_modPkt hp fun _ => rfl
    have hasked := askRestore_frame (s := s.decoded p) (p := { p with stage := .decoded, seed := (s.part p.part).seed }) htwin
    have hq : ((s.decoded p).askRestore { p with stage := .decoded, seed := (s.part p.part).seed }).pkt p.id =
        some { p with stage := .decoded, seed := (s.part p.part).seed, wait := .herd } := by
      rw [hasked]
      exact pkt_modPkt hdecoded fun _ => rfl
    rw [tryDispatch_waiting (by exact hq) (show Wait.herd ≠ .none by decide)] at hexec
    refine ⟨_, _, hexec, (pkt_noteAll _ _).trans hq, rfl, rfl, ?_, ?_⟩
    · rw [State.noteAll_mem]; exact (congrArg State.mem hasked :)
    · rw [State.noteAll_train]; exact (congrArg State.train hasked :)
  case takes =>
    intro r hrun hfront hp hop hstage hwait hturn hr hearly
    have hsel : restoreBody.sel q = true := by simp [restoreBody, selOp, hop]
    have hexec : exec (.restore h) s = .next (s.runPacket h restoreBody).noteAll := onHopper_eq hh restoreBody
    have hengine : ((opInfo q.op).map (·.e)).getD false = false := by rw [hop]; rfl
    obtain ⟨q', htaken, hreq, hrunning⟩ := pkt_taken hp
    have hid : q'.id = q.id := congrArg Prod.fst hreq
    rw [runPacket_runs hrun hfront hsel hp hstage hwait hturn hengine (fun _ => rfl), htaken, Option.getD_some,
      restoreBody_withoutPages (by exact hr) hearly, hid] at hexec
    refine ⟨_, { q' with wait := .herd }, hexec, ?_, hrunning, rfl, ?_, ?_⟩
    · rw [pkt_noteAll, pkt_setRestore]
      exact pkt_modPkt htaken fun _ => rfl
    · rw [State.noteAll_train, ← hr]
      rfl
    · rw [State.noteAll_mem]
      rfl

end Sys2Proof.Machine
end

section
/-!
SUPPORT. HERD_FORM, HERD_LEAVE and the joins of the collectives (10 R286 to R293, 09 R241).
-/
namespace Sys2Proof.Machine

/-! ### Formation (R286 to R289) -/

/-- The formation that a HERD_FORM with manifest m begins. -/
def Pkt.formation (q : Pkt) (m : List (BitVec 8)) : Forming :=
  { pkt := q.id, self := q.w 2 % 64, members := field (q.w 2) 14 8, part := q.w 6 % 8, bytes := m }

/-- A formation goes no further while a port that it uses is not ready. -/
theorem formTry_notReady {s : State} {f : Forming} (hf : s.herd.forming = some f)
    (hports : s.portsReady (entriesOf f.bytes) f.self = false) : s.formTry false = s := by
  simp [State.formTry, hf, hports]

/-- A formation that failed leaves no formation, and its packet ends with HERD_MISMATCH where it did not run out of time. -/
theorem formFail_mismatch {s : State} {f : Forming} {p : Pkt} {code : Nat} (hp : s.pkt f.pkt = some p) (hcode : code ≠ 0) (x : Nat) :
    (s.formFail f code x).herd = { s.herd with forming := none, offers := [] } ∧
      ∃ r, (s.formFail f code x).pkt f.pkt = some r ∧ r.Ended .herdMismatch code x := by
  unfold State.formFail
  rw [if_neg hcode, log_frame]
  constructor
  · rw [endPkt_endsOnly]
  · exact pkt_endPkt (by exact hp) .herdMismatch code x {} 0

section
variable {t v w : State} {q : Pkt} {hd es : List (BitVec 8)} {e : Entry} (htwin : t.noTwin = false)
  (hheader : t.readBytes { part := some q.part, pkt := some q.id } (q.a40 4) 64 = (hd, none, v))
  (hentries : v.readBytes { part := some q.part, pkt := some q.id } (q.a40 4 + 64) (32 * min (byteAt hd 1 1) 64) = (es, none, w))
  (hok : manifestOk (hd ++ es) (field (q.w 2) 14 8) = true) (hentry : findEntry (entriesOf (hd ++ es)) (q.w 2 % 64) = some e)

include hheader hentries in
theorem manifest_accessOnly : AccessOnly t w :=
  ((readBytes_accessOnly _ _ _ _).of_eq₂ hheader).trans ((readBytes_accessOnly _ _ _ _).of_eq₂ hentries)

include htwin hheader hentries hok hentry

/-- A sound manifest that names this device begins a formation. -/
theorem formStart_begins (hserial : e.serial = Config.serial) :
    t.formStart q = ((w.setForming (some (q.formation (hd ++ es)))).holdForHerd q.id).formTry false := by
  have hw : w.noTwin = false := by rw [(manifest_accessOnly hheader hentries).frame]; exact htwin
  simp [State.formStart, hheader, hentries, hw, hok, hentry, hserial, lowestFinding, Pkt.formation, State.holdForHerd]

/-- A sound manifest that names another device at this place fails with code 0x0C. -/
theorem formStart_otherDevice (hserial : e.serial ≠ Config.serial) :
    t.formStart q = w.formFail (q.formation (hd ++ es)) 0xC (q.w 2 % 64) := by
  have hw : w.noTwin = false := by rw [(manifest_accessOnly hheader hentries).frame]; exact htwin
  simp [State.formStart, hheader, hentries, hw, hok, hentry, hserial, lowestFinding, Pkt.formation]

end

/-! ### Leaving (R293) -/

theorem herdEvent_frame (s : State) (i : Nat) :
    s.herdEvent i = { s with
      herd := { s.herd with event := (s.herdEvent i).herd.event }, msix := (s.herdEvent i).msix, out := (s.herdEvent i).out } := by
  unfold State.herdEvent
  extract_lets rising risen
  split
  · rw [msixSend_frame]
  · rfl

/-- With no herd packet waiting, the end of the herd leaves packets, contexts and memory alone. -/
theorem dissolve_idle {t s : State} (hsent : SendsOnly t s) (hformed : t.herd.formed = true) (hcolls : t.herd.colls = [])
    (hcloses : t.herd.closes = []) (hcommit : t.train.commit = none) :
    s.dissolve.herd.formed = false ∧ s.dissolve.herd.dissolved = true ∧ s.dissolve.mem = t.mem ∧ s.dissolve.ctxs = t.ctxs ∧
      ∀ i, s.dissolve.pkt i = t.pkt i := by
  have hops : s.endHerdOps = s.setCommit none := by
    rw [hsent]
    simp [State.endHerdOps, hcolls, hcloses, hcommit]
  have hherd : s.herd.formed = true := by rw [hsent]; exact hformed
  unfold State.dissolve
  simp only [hherd, hops, Bool.not_true, Bool.false_eq_true, if_false]
  rw [herdEvent_frame, hsent]
  exact ⟨rfl, rfl, rfl, rfl, fun _ => rfl⟩

theorem leaveBody_leaves (t : State) (q : Pkt) :
    leaveBody.body t q = (t.sendAll 0 (t.herd.entries.map (·.id)) "DISSOLVE" []).dissolve.endPkt q.id .ok 0 0 := rfl

/-! ### Collectives (R241) -/

/-- The joins heard once member x has joined. -/
def Herd.joinsWith (hd : Herd) (gather : Bool) (k x : Nat) (fields : List Nat) : List (Bool × Nat × Nat × List Nat) :=
  (hd.joins.filter fun j => !(j.1 = gather && j.2.1 = k && j.2.2.1 = x)) ++ [(gather, k, x, fields)]

/-- A join is kept where this device does not lead, or has not heard of every member. -/
theorem onJoin_keeps {s : State} {gather : Bool} {k x : Nat} {fields : List Nat}
    (hwait : s.isLeader = true → s.herd.allOf (((s.herd.joinsWith gather k x fields).filter
      fun j => j.1 = gather && j.2.1 = k).map fun j => j.2.2.1) = false) :
    s.onJoin gather k x fields = { s with herd := { s.herd with joins := s.herd.joinsWith gather k x fields } } := by
  refine if_neg fun hgo => ?_
  simp only [Bool.and_eq_true] at hgo
  obtain ⟨⟨hlead, hall⟩, -⟩ := hgo
  exact Bool.false_ne_true ((hwait hlead).symm.trans hall)

/-- A member that does not lead only keeps a join, whatever it has sent before. -/
theorem onJoin_member {s sent : State} (hsent : SendsOnly s sent) (hlead : s.isLeader = false) (gather : Bool) (k x : Nat)
    (fields : List Nat) :
    let u := sent.onJoin gather k x fields
    u.pkts = s.pkts ∧ u.mem = s.mem ∧ u.herd = { s.herd with joins := s.herd.joinsWith gather k x fields } := by
  have hkeeps : sent.isLeader = false := by rw [hsent]; exact hlead
  dsimp only
  rw [onJoin_keeps fun h => absurd (hkeeps.symm.trans h) Bool.false_ne_true, hsent]
  exact ⟨rfl, rfl, rfl⟩

theorem joinColl_eq {t : State} {q : Pkt} {c : Coll} (hc : t.coll q.id = some c) :
    t.joinColl q = ((t.holdForHerd q.id).sendAll 1 t.herd.members "JOIN"
      ([b2n c.gather, c.k, t.herd.self] ++ collFields q c.gather)).onJoin c.gather c.k t.herd.self (collFields q c.gather) := by
  rw [State.joinColl, hc]
  rfl

/-- A dispatched collective joins; where the device does not lead, it only keeps its join and waits. -/
theorem collective_joins {h : Nat} {s t : State} {q : Pkt} {c : Coll} {o : OpBody} {cmd : Instr} (hh : h < 256)
    (hc : t.coll q.id = some c) (hcmd : exec cmd s = s.onHopper h o) (hbody : ∀ s p, o.body s p = s.joinColl p)
    (hd : s.dispatched h o = some (q, t)) :
    exec cmd s = .next (((t.holdForHerd q.id).sendAll 1 t.herd.members "JOIN"
        ([b2n c.gather, c.k, t.herd.self] ++ collFields q c.gather)).onJoin c.gather c.k t.herd.self
        (collFields q c.gather)).noteAll ∧
      (t.isLeader = false → ∃ u, exec cmd s = .next u ∧ u.pkts = (t.holdForHerd q.id).pkts ∧ u.mem = t.mem ∧
        u.herd = { t.herd with joins := u.herd.joins } ∧ (c.gather, c.k, t.herd.self, collFields q c.gather) ∈ u.herd.joins) := by
  have hexec := hcmd.trans (onHopper_dispatched hh hd)
  rw [hbody, joinColl_eq hc] at hexec
  refine ⟨hexec, fun hlead => ?_⟩
  obtain ⟨hpkts, hmem, hherd⟩ := onJoin_member (sendAll_sendsOnly (t.holdForHerd q.id) 1 t.herd.members "JOIN"
    ([b2n c.gather, c.k, t.herd.self] ++ collFields q c.gather) []) hlead c.gather c.k t.herd.self (collFields q c.gather)
  refine ⟨_, hexec, (State.noteAll_pkts _).trans hpkts, (State.noteAll_mem _).trans hmem, ?_, ?_⟩
  · rw [State.noteAll_herd, hherd]
    rfl
  · rw [State.noteAll_herd]
    exact hherd ▸ List.mem_append_right _ List.mem_cons_self

/-- Settles O35: by what HERD_FORM makes of a sound manifest, HERD_LEAVE of a herd, and a collective of its join. -/
theorem herdPacketsTakeEffect : Obligations.HerdPacketsTakeEffect := by
  unfold Obligations.HerdPacketsTakeEffect
  refine ⟨fun h s t q hh => ⟨fun hd es v w e hdis htwin hheader hentries hok hentry hports => ⟨fun hserial => ?begins,
    fun hserial => ?mismatch⟩, fun hdis hformed hcolls hcloses hcommit => ?leaves⟩, fun h s t q c hh hc => ?collectives⟩
  case begins =>
    have hexec : exec (.herdForm h) s = .next (t.formStart q).noteAll := onHopper_dispatched hh hdis
    rw [formStart_begins htwin hheader hentries hok hentry hserial, formTry_notReady rfl (by exact hports)] at hexec
    exact ⟨_, hexec, rfl, rfl, rfl, rfl⟩
  case mismatch =>
    have hexec : exec (.herdForm h) s = .next (t.formStart q).noteAll := onHopper_dispatched hh hdis
    rw [formStart_otherDevice htwin hheader hentries hok hentry hserial] at hexec
    obtain ⟨q', hq', -⟩ := pkt_of_requests (manifest_accessOnly hheader hentries).requests (dispatched_pkt hdis)
    obtain ⟨hherd, r, hr, hended⟩ := formFail_mismatch (f := q.formation (hd ++ es)) hq' (show 0xC ≠ 0 by decide) (q.w 2 % 64)
    refine ⟨_, r, hexec, ?_, ?_, (pkt_noteAll _ _).trans hr, hended.stage, hended.status_of_ne_ok (by decide), hended.r0, hended.r1⟩
    · rw [State.noteAll_herd, hherd]
    · rw [State.noteAll_herd, hherd]
  case leaves =>
    have hexec : exec (.herdLeave h) s = .next (leaveBody.body t q).noteAll := onHopper_dispatched hh hdis
    rw [leaveBody_leaves] at hexec
    obtain ⟨hformed', hdissolved, hmem, hctxs, hpkt⟩ := dissolve_idle (sendAll_sendsOnly t 0 (t.herd.entries.map (·.id)) "DISSOLVE" [] [])
      hformed hcolls hcloses hcommit
    obtain ⟨r, hr, hended⟩ := pkt_endPkt ((hpkt q.id).trans (dispatched_pkt hdis)) .ok 0 0 {} 0
    rw [endPkt_good_frame] at hexec hr
    exact ⟨_, r, hexec, hformed', hdissolved, hmem, hctxs, hr, hended.stage⟩
  case collectives =>
    exact ⟨collective_joins hh hc rfl fun _ _ => rfl, collective_joins hh hc rfl fun _ _ => rfl,
      collective_joins hh hc rfl fun _ _ => rfl⟩

end Sys2Proof.Machine
end

section
/-!
SUPPORT. The messages of the collectives, of herd contexts and of checkpoints (09 R241, R261 to R265, 10 R304).
-/
namespace Sys2Proof.Machine

/-! ### Herd contexts (R304) -/

/-- A freed context is gone, with its successor and companions. -/
theorem ctx_freeCtx (s : State) (h : Nat) : (s.freeCtx h).ctx h = none := by
  unfold State.freeCtx
  split
  · simp [State.ctx]
  next hnone => exact hnone

theorem ctx_freeAll (s : State) (h : Nat) : (s.freeAll h).ctx h = none := ctx_freeCtx _ h

/-- The nodes of a member are kept where no close of that place waits here. -/
theorem onHerdNodes_withoutClose {s : State} {m : CtxNodesMsg} (hcloses : (s.herd.closes.all fun c => c.k != m.k) = true) :
    s.onHerdNodes m = { s with herd := { s.herd with
      closeMsgs := (s.herd.closeMsgs.filter fun (y : CtxNodesMsg) => !(y.k = m.k && y.x = m.x)) ++ [m] } } := by
  have hnone : s.herd.closes.find? (fun x => x.k = m.k) = none := by
    rw [List.find?_eq_none]
    exact fun c hc => by simpa using List.all_eq_true.mp hcloses c hc
  simp [State.onHerdNodes, State.herdCloseTry, hnone]

/-- The herd close of place k is no longer waiting. -/
def State.forgetClose (s : State) (k : Nat) : State :=
  { s with herd := { s.herd with closes := s.herd.closes.filter fun y => y.k != k } }

/-- The result of a herd context without DEST frees the context and ends the close. -/
theorem herdCtxResult_withoutDest {s : State} {k : Nat} {x : HerdClose} {p : Pkt} {c : Ctx}
    (hclose : s.herd.closes.find? (fun x => x.k = k) = some x) (hp : s.pkt x.pkt = some p) (hc : s.ctx x.handle = some c)
    (hstage : p.stage = .running) (hwait : p.wait = .herd) (hdest : bit (p.w 2) 0 = false) (r0 count : BitVec 64) (ev : BitVec 3) :
    ∃ fl, herdCtxResult k r0 count ev s =
      ((s.forgetClose k).freeAll c.handle).endPkt p.id .ok r0.toNat (count.toNat % 2 ^ 40) fl p.handle := by
  refine ⟨stickyFlags c (count = 0 || (c.kind = 4 && r0.toNat % 2 ^ 32 = negInf32.toNat)) (evFlags ev), ?_⟩
  simp [herdCtxResult, hclose, hp, hc, hstage, hwait, State.closeFinish, closeWrites, hdest, State.writeAll, State.forgetClose]

/-! ### Checkpoints (R261, R262, R265) -/

/-- The confirmation of a CHECKPOINT whose pages are all sent clears it and ends its packet. -/
theorem ckptConfirmed_ends {s : State} {c : CkptRun} {p : Pkt} (hc : s.train.ckpt = some c) (htodo : c.todo = [])
    (hp : s.pkt c.pkt = some p) (hstage : p.stage = .running) :
    ∃ w : State, s.ckptConfirmed c.step = w.endPkt c.pkt .ok (c.sent.length * 65536) c.step.toNat ∧ w.train.ckpt = none ∧
      w.mem = s.mem ∧ ∀ i, w.pkt i = s.pkt i := by
  unfold State.ckptConfirmed
  rw [hc]
  dsimp only
  rw [if_pos (by simp [htodo, hp, hstage])]
  exact ⟨_, rfl, rfl, rfl, fun _ => rfl⟩

def State.setHeld (s : State) (cs : List Ckpt) : State := { s with train := { s.train with held := cs } }

/-- The page of a checkpoint goes into its free frame. -/
theorem checkpointPage_stores {s : State} {step : BitVec 64} {page f : Nat} {bs : List (BitVec 8)} {cs : List Ckpt}
    (hrun : s.running = true) (hbase : s.regions.ckptBase.isSome = true) (hlen : bs.length = 65536)
    (hadd : addPage s.train.held step page = some (cs, f)) :
    checkpointPage step page bs s = ((s.setHeld cs).rawWrite {} 2050 ((s.setHeld cs).frameAt f) bs).2 := by
  have hbase' : s.regions.ckptBase.isNone = false := by rw [Option.isNone_eq_false_iff]; exact hbase
  simp [checkpointPage, hrun, hbase', hlen, hadd, State.setHeld]

/-- Settles O55: each message by what it does in the case its clause names, and what an access to memory and the end of a packet
leave alone. -/
theorem messagesOfCollectivesAndCheckpoints : Obligations.MessagesOfCollectivesAndCheckpoints := by
  unfold Obligations.MessagesOfCollectivesAndCheckpoints
  refine ⟨fun s hmode hformed => ⟨?join, ?nodes, ?result⟩, fun s hmode => ⟨?page, ?confirm, ?query, ?restore⟩⟩
  case join =>
    intro g k x fs hlead js hall
    show execCollectiveNode (.join g k x fs) s = _
    simp only [execCollectiveNode, collectiveNode, running_of_ready hmode, hformed, Bool.not_true, Bool.or_self,
      Bool.false_eq_true, if_false, onJoin_keeps fun _ => hall]
    rfl
  case nodes =>
    intro m hx htree hcloses
    show execHerdCtxNode m s = _
    simp only [execHerdCtxNode, running_of_ready hmode, hformed, htree, hx, decide_true, Bool.and_self, if_true,
      onHerdNodes_withoutClose hcloses]
    rfl
  case result =>
    intro k i h p c r0 count ev hclose hp hc hstage hwait hdest hhandle
    obtain ⟨fl, hresult⟩ := herdCtxResult_withoutDest hclose hp hc hstage hwait hdest r0 count ev
    have hexec : exec (.herdCtxResult k (r0, count) ev) s = .next (herdCtxResult k r0 count ev s).noteAll := by
      show execHerdCtxResult k (r0, count) ev s = _
      simp [execHerdCtxResult, running_of_ready hmode]
    rw [hresult, pkt_id hp, hhandle] at hexec
    have hfreed : ((s.forgetClose k).freeAll h).pkt i = some p := by
      rw [State.pkt, freeAll_pkts]
      exact hp
    obtain ⟨r, hr, hended⟩ := pkt_endPkt hfreed .ok r0.toNat (count.toNat % 2 ^ 40) fl p.handle
    rw [endPkt_good_frame] at hexec hr
    exact ⟨_, r, hexec, hr, hended.stage, by simpa using hended.r0, hended.r1, ctx_freeAll (s.forgetClose k) h⟩
  case page =>
    intro x page f step bs cs hx hpage hbase hlen hadd
    have hexec : exec (.checkpointPage x step page bs) s = .next (checkpointPage step page bs s).noteAll := by
      show execCheckpointPage x step page bs s = _
      simp [execCheckpointPage, hx, hpage]
    have hwrite := rawWrite_accessOnly {} 2050 (s.setHeld cs) ((s.setHeld cs).frameAt f) bs
    rw [checkpointPage_stores (running_of_ready hmode) hbase hlen hadd, hwrite.frame] at hexec
    exact ⟨_, hexec, rfl, rfl, rfl⟩
  case confirm =>
    intro c p hc htodo hp hstage
    have hexec : exec (.checkpointConfirm (.sender c.step)) s = .next (s.ckptConfirmed c.step).noteAll := by
      show execCheckpointConfirm (.sender c.step) s = _
      simp [execCheckpointConfirm, confirmOk, checkpointConfirm, running_of_ready hmode]
    obtain ⟨w, hends, hckpt, hmem, hpkt⟩ := ckptConfirmed_ends hc htodo hp hstage
    obtain ⟨r, hr, hended⟩ := pkt_endPkt ((hpkt c.pkt).trans hp) .ok (c.sent.length * 65536) c.step.toNat {} 0
    rw [hends, endPkt_good_frame] at hexec
    exact ⟨_, r, hexec, hckpt, hr, hended.stage, hended.r0, by simpa using hended.r1, hmem⟩
  case query =>
    intro r hr hheld
    show execRestoreQuery (.answered true) s = _
    simp only [execRestoreQuery, restoreMsgOk, restoreQuery, running_of_ready hmode, hr, hheld, Bool.not_true, Bool.false_eq_true,
      if_false, if_true]
    rfl
  case restore =>
    intro r p page bs hr hp hstage hpages hpage hlen
    have hpages' : ¬ s.paramPages ≤ page := by omega
    show execRestorePage page bs s = _
    simp [execRestorePage, restorePage, running_of_ready hmode, hr, hp, hstage, hpages', hpage, hlen, State.setRestore]

end Sys2Proof.Machine
end
